-- ==== Sys2Proof/Word.lean ====
section
/-! DEFINITION. The bit-vector types of the core's ports, registers and table words (R7, R31, R41).
Bit 0 is the least significant bit of every one of them. -/

namespace Sys2Proof

/-- A `u8` of rule R7: a sample, a commanded amplitude or step, a waveform value, a duty value. -/
abbrev Byte := BitVec 8

/-- A 5-bit phase number (R12, R41); legal values are 0..23. -/
abbrev Phase := BitVec 5

/-- A `STEP_ROM` cell: a 7-bit magnitude 0..127 (R18, R47). -/
abbrev Magnitude := BitVec 7

/-- A 4-bit descriptor `{neg, zero, col[1:0]}` (R46). -/
abbrev DescriptorBits := BitVec 4

/-- A 12-bit `INDEX_ROM` word `{w, v, u}` (R45). -/
abbrev IndexWord := BitVec 12

/-- A 35-bit command vector, format `CMDV` (R43). -/
abbrev CommandVector := BitVec 35

end Sys2Proof
end

