-- ==== Sys2Proof/Syntax.lean ====
section
/-! DEFINITION. The commands of the core (R42), one constructor per row of the opcode table, and the
formats of its configuration parameters (R6, R46, R48, R96, R97) as they are written before any check. -/

namespace Sys2Proof

/-- The five commands of rule R42. CYCLE and CYCLE_TICK carry the four operand fields of the command
vector; NOP, TICK and RESET ignore them (R43). -/
inductive Instr where
  | nop
  | cycle (uSense vSense amplitude step : Byte)
  | tick
  | cycleTick (uSense vSense amplitude step : Byte)
  | reset
deriving DecidableEq, Repr

/-! ### The cascade parameter (R48) -/

/-- A block's one `_del` operand. -/
inductive DelSel where
  | uDel | vDel | wDel
deriving DecidableEq, Repr

/-- A block's `_adv` operands. -/
inductive AdvSel where
  | uAdv | vAdv | wAdv
deriving DecidableEq, Repr

/-- A relation between two unsigned 8-bit values. -/
inductive Rel where
  | lt | le | gt | ge | eq | ne
deriving DecidableEq, Repr

/-- One test of a rule: the block's `_del` value against NEUTRAL, or its two `_adv` values. -/
inductive Atom where
  | delVsNeutral (rel : Rel)
  | advVsAdv (rel : Rel)
deriving DecidableEq, Repr

/-- A decision rule: a conjunction of atoms (the empty one is true) and the phase it assigns. -/
structure CascadeRule where
  conds : List Atom
  phase : Nat
deriving DecidableEq, Repr

/-- The six comparison blocks. -/
inductive BlockName where
  | uBlock | vBlock | wBlock | uwCross | vuCross | wvCross
deriving DecidableEq, Repr

/-- One comparison block, its rules in source order. -/
structure Block where
  name : BlockName
  del : DelSel
  advA : AdvSel
  advB : AdvSel
  rules : List CascadeRule
deriving DecidableEq, Repr

/-! ### The table parameters (R46, R96, R97) -/

/-- A descriptor's three fields: table column, force-zero flag, negate flag (R46). -/
structure Descriptor where
  col : BitVec 2
  zero : Bool
  neg : Bool
deriving DecidableEq, Repr

/-- One IndexTable entry: a descriptor for each output (R97). -/
structure IndexEntry where
  u : Descriptor
  v : Descriptor
  w : Descriptor
deriving DecidableEq, Repr

/-! ### The policies and the whole parameter list (R6) -/

/-- `MISS_POLICY`: `DEFAULT` gives `MISS_PHASE` on a miss, `HOLD` gives `current_phase` (R70). -/
inductive MissPolicy where
  | defaultPhase | hold
deriving DecidableEq, Repr

/-- `TICK_ORDER`: which of the two is applied first at a CYCLE_TICK edge (R113). -/
inductive TickOrder where
  | tickFirst | updateFirst
deriving DecidableEq, Repr

/-- The open parameters of rule R6 as a user writes them, unchecked. Those the spec gives a default
take it when they are left out; `CASCADE`, `STEP_TABLE`, `INDEX_TABLE` and `SUM_TOL` have none. -/
structure Params where
  accWidth : Nat := 16
  cascade : List Block
  stepTable : List (List Int)
  indexTable : List IndexEntry
  missPolicy : MissPolicy := .defaultPhase
  missPhase : Nat := 0
  tickOrder : TickOrder := .tickFirst
  sumTol : Nat
deriving DecidableEq, Repr

end Sys2Proof
end

