-- ==== Sys2Proof/Decode.lean ====
section
/-! DEFINITION. The command vector `CMDV` (R43): its fields, the decoder, which is total and rejects
nothing because every value of `cmd` is a command (R42, R50), and the encoder (R51). -/

namespace Sys2Proof

namespace CommandVector

/-- `cmd = {rst, tick, cycle}`, bits `[34:32]` (R42, R43). -/
def cmd (v : CommandVector) : BitVec 3 := v.extractLsb' 32 3

/-- `u_sense`, bits `[31:24]`. -/
def uSense (v : CommandVector) : Byte := v.extractLsb' 24 8

/-- `v_sense`, bits `[23:16]`. -/
def vSense (v : CommandVector) : Byte := v.extractLsb' 16 8

/-- `amplitude`, bits `[15:8]`. -/
def amplitude (v : CommandVector) : Byte := v.extractLsb' 8 8

/-- `step`, bits `[7:0]`. -/
def step (v : CommandVector) : Byte := v.extractLsb' 0 8

/-- A vector from its five fields. -/
def ofFields (cmd : BitVec 3) (u v amp step : Byte) : CommandVector :=
  cmd ++ u ++ v ++ amp ++ step

end CommandVector

/-- The command a vector presents, from bits `[34:32]` alone; `rst` dominates (R42). -/
def decode (v : CommandVector) : Instr :=
  if v.cmd.getLsbD 2 then .reset
  else if v.cmd.getLsbD 1 then
    if v.cmd.getLsbD 0 then .cycleTick v.uSense v.vSense v.amplitude v.step else .tick
  else
    if v.cmd.getLsbD 0 then .cycle v.uSense v.vSense v.amplitude v.step else .nop

/-- The vector a program line writes for a command (R51): the ignored bits of RESET and the operand
fields of a command without operands are zero. -/
def encode : Instr → CommandVector
  | .nop => CommandVector.ofFields 0b000 0 0 0 0
  | .cycle u v a s => CommandVector.ofFields 0b001 u v a s
  | .tick => CommandVector.ofFields 0b010 0 0 0 0
  | .cycleTick u v a s => CommandVector.ofFields 0b011 u v a s
  | .reset => CommandVector.ofFields 0b100 0 0 0 0

/-- The command vector in the low 35 bits of a table word of `nbits` bits. The table counts in whole
bytes; the padding bits above bit 34 belong to no port and are dropped (log entry 7). -/
def vectorOfTableWord (nbits w : Nat) : CommandVector := BitVec.ofNat 35 (w % 2 ^ nbits)

/-- The command the decoder reads from a table word. -/
def decodeTableWord (nbits w : Nat) : Option Instr := some (decode (vectorOfTableWord nbits w))

end Sys2Proof
end

