-- ==== Sys2Proof/Machine/Constants.lean ====
section
/-! DEFINITION. The constants the source fixes (R6, R65). -/

namespace Sys2Proof.Machine

/-- `N_PHASES`: phases are 0..23 (R6). -/
def nPhases : Nat := 24

/-- `JUMP_LIMIT`: a forward distance of 12 or more is rejected (R6, R81). -/
def jumpLimit : Nat := 12

/-- `NEUTRAL`, the decision threshold (R65). -/
def neutral : Byte := 103

/-- `WAVE_SUM`, the constant of the third axis (R60). -/
def waveSum : Byte := 255

/-- `WAVE_OFFSET`, added to every axis (R61). -/
def waveOffset : Byte := 64

/-- `DUTY_CENTER`, the neutral 50% duty (R94). -/
def dutyCenter : Byte := 128

/-- `AMP_MAX`: amplitudes are 0..61 (R6, R91). -/
def ampMax : Nat := 61

/-- The largest step, 23 (R91). -/
def stepMax : Nat := 23

/-- `MAG_MAX`, the largest StepTable cell (R6, R96). -/
def magMax : Nat := 127

/-- `ACC_WIDTH` is at least 4 (R13). -/
def accWidthMin : Nat := 4

end Sys2Proof.Machine
end

