-- ==== Sys2Proof/WellFormed.lean ====
section
/-! DEFINITION. The named configuration checks of rules R49, R96, R71 and R13. A parameter list that
fails one is refused by that check's name at configuration time (R133). No check is made on a command:
every command word and every operand value is legal (R50). -/

namespace Sys2Proof

open Machine

/-- Why a parameter list is refused; each constructor is a check of the spec under its own name
(`itShape`, `missPhaseRange` and `accWidthMin` are names of this model). -/
inductive ConfigError where
  /-- R49 `wf_six_blocks`. -/
  | wfSixBlocks
  /-- R49 `wf_block_order`. -/
  | wfBlockOrder
  /-- R49 `wf_phase_range`. -/
  | wfPhaseRange
  /-- R49 `wf_adv_distinct`. -/
  | wfAdvDistinct
  /-- R96 `st_shape`. -/
  | stShape
  /-- R96 `st_range`. -/
  | stRange
  /-- R96 `st_row0`. -/
  | stRow0
  /-- R96 `st_max`. -/
  | stMax
  /-- R97: the IndexTable has 24 entries. -/
  | itShape
  /-- R71: `MISS_PHASE` is in 0..23. -/
  | missPhaseRange
  /-- R13: `ACC_WIDTH` is at least 4. -/
  | accWidthMin
deriving DecidableEq, Repr

/-- Every check, in the order in which failures are reported. -/
def ConfigError.all : List ConfigError :=
  [.wfSixBlocks, .wfBlockOrder, .wfPhaseRange, .wfAdvDistinct, .stShape, .stRange, .stRow0, .stMax,
    .itShape, .missPhaseRange, .accWidthMin]

/-- The block names in the order the cascade must have (R49). -/
def blockOrder : List BlockName :=
  [.uBlock, .vBlock, .wBlock, .uwCross, .vuCross, .wvCross]

/-- `wf_phase_range`: every rule's phase is in 0..23. -/
def phasesInRange (blocks : List Block) : Bool :=
  blocks.all fun b => b.rules.all fun r => decide (r.phase < nPhases)

/-- `wf_adv_distinct`: no block compares an estimate with itself. -/
def advsDistinct (blocks : List Block) : Bool :=
  blocks.all fun b => decide (b.advA ≠ b.advB)

/-- `st_shape`: 62 rows by 4 columns. -/
def tableShape (table : List (List Int)) : Bool :=
  decide (table.length = ampMax + 1) && table.all fun row => decide (row.length = 4)

/-- `st_range`: every cell is in 0..127. -/
def tableRange (table : List (List Int)) : Bool :=
  table.all fun row => row.all fun cell => decide (0 ≤ cell ∧ cell ≤ magMax)

/-- `st_row0`: every cell of row 0 is 0. -/
def tableRow0 (table : List (List Int)) : Bool :=
  (table.take 1).all fun row => row.all fun cell => decide (cell = 0)

/-- `st_max`: some cell equals 127. -/
def tableMax (table : List (List Int)) : Bool :=
  table.any fun row => row.any fun cell => decide (cell = magMax)

/-- Whether a parameter list passes one named check. -/
def Params.passes (p : Params) : ConfigError → Bool
  | .wfSixBlocks => decide (p.cascade.length = 6)
  | .wfBlockOrder => decide (p.cascade.map Block.name = blockOrder)
  | .wfPhaseRange => phasesInRange p.cascade
  | .wfAdvDistinct => advsDistinct p.cascade
  | .stShape => tableShape p.stepTable
  | .stRange => tableRange p.stepTable
  | .stRow0 => tableRow0 p.stepTable
  | .stMax => tableMax p.stepTable
  | .itShape => decide (p.indexTable.length = nPhases)
  | .missPhaseRange => decide (p.missPhase < nPhases)
  | .accWidthMin => decide (Machine.accWidthMin ≤ p.accWidth)

/-- The checks a parameter list fails. -/
def Params.failures (p : Params) : List ConfigError :=
  ConfigError.all.filter fun c => !p.passes c

end Sys2Proof
end

