-- ==== Sys2Proof/Config.lean ====
section
/-! DEFINITION. The checked configuration: types whose values cannot break the checks of rules R49, R96,
R71 and R13, so that an ill-formed configuration never reaches the machine (R133), and the free values
that stand for the parameters the spec leaves without a value (U7, U8, U11; log entry 2). -/

namespace Sys2Proof

open Machine

/-! The field defaults of the three types below only show Lean that each type has a value, which an opaque
constant of the type needs; nothing of the machine uses them. -/

/-- A cascade that passes the four checks of rule R49. -/
structure Cascade where
  blocks : List Block := Sys2Proof.blockOrder.map fun n => ⟨n, .uDel, .uAdv, .vAdv, []⟩
  sixBlocks : blocks.length = 6 := by decide
  blockOrder : blocks.map Block.name = Sys2Proof.blockOrder := by decide
  phaseRange : phasesInRange blocks = true := by decide
  advDistinct : advsDistinct blocks = true := by decide
deriving DecidableEq, Repr, Inhabited

/-- `STEP_ROM`: 248 cells of 7 bits, cell (a, c) at flat address `4*a + c` (R30), whose row 0 is zero and
which holds a 127 (R96). -/
structure StepRom where
  cells : List Magnitude := List.replicate 247 0 ++ [127]
  size : cells.length = 4 * (ampMax + 1) := by decide +kernel
  row0 : ((cells.take 4).all fun m => decide (m = 0)) = true := by decide
  max : (cells.any fun m => decide (m = 127)) = true := by decide +kernel
deriving DecidableEq, Repr, Inhabited

/-- `INDEX_ROM`: 24 words of 12 bits (R19, R30); every content is legal (R97). -/
structure IndexRom where
  words : List IndexWord := List.replicate 24 0
  size : words.length = nPhases := by decide
deriving DecidableEq, Repr, Inhabited

/-- The configuration of rule R20 other than the two tables, which State holds as ROMs. Fixed for the
core's lifetime. `sumTol` is read by the configuration check of rule R99 alone. -/
structure Config where
  accWidth : Nat
  accWidthOk : Machine.accWidthMin ≤ accWidth
  cascade : Cascade
  missPolicy : MissPolicy
  missPhase : Phase
  missPhaseOk : missPhase.toNat < nPhases
  tickOrder : TickOrder
  sumTol : Nat
deriving DecidableEq, Repr

/-! ### The parameters without a value in the spec

DESIGN CHOICE (log entry 2): each is a free value, an opaque constant without a body. -/

/-- `CASCADE` as long as no parameter list is given: free (U7, N1). -/
opaque Config.freeCascade : Cascade

/-- The contents of `STEP_ROM` as long as no parameter list is given: free (U8, N2). -/
opaque Config.freeStepRom : StepRom

/-- The contents of `INDEX_ROM` as long as no parameter list is given: free (U8, N3). -/
opaque Config.freeIndexRom : IndexRom

/-- `SUM_TOL` as long as no parameter list is given: free (U11, N11). -/
opaque Config.freeSumTol : Nat

/-- The configuration of a core that was given no parameter list: the spec's defaults (R6) where it has
one, a free value elsewhere. -/
def Config.unset : Config where
  accWidth := 16
  accWidthOk := by decide
  cascade := Config.freeCascade
  missPolicy := .defaultPhase
  missPhase := 0
  missPhaseOk := by decide
  tickOrder := .tickFirst
  sumTol := Config.freeSumTol

end Sys2Proof
end

