-- ==== Sys2Proof/Machine/State.lean ====
section
/-! DEFINITION. The state of the core: the five registers and the status bit of rules R12 to R16, the two
ROMs of rules R18 and R19, the configuration of rule R20, whether a RESET has been given (R23), and the
command vectors the environment has still to present (R40, R136). -/

namespace Sys2Proof.Machine

/-- The registers. `phaseAcc` and `velocitySnapshot` are unsigned numbers of `ACC_WIDTH` bits, a width the
configuration sets; that they stay below `2^ACC_WIDTH` is part of `State.Inv` (log entry 6). -/
structure Regs where
  /-- R12: the phase the tracker accepted last. -/
  currentPhase : Phase
  /-- R13: the angular accumulator. -/
  phaseAcc : Nat
  /-- R14: the last velocity sample. -/
  velocitySnapshot : Nat
  /-- R15. -/
  dutyU : Byte
  /-- R15. -/
  dutyV : Byte
  /-- R15. -/
  dutyW : Byte
  /-- R16: some cycle since RESET missed. -/
  missSticky : Bool
deriving DecidableEq, Repr

/-- The whole machine. -/
structure State where
  /-- R20: the configuration; no command writes it (log entry 1). -/
  cfg : Config
  /-- R18. -/
  stepRom : StepRom
  /-- R19. -/
  indexRom : IndexRom
  /-- R12 to R16. -/
  regs : Regs
  /-- R23: some RESET has been given. Until then no register may be read (log entry 5). -/
  resetSeen : Bool
  /-- The command vectors at the input ports for the coming clock edges, the next one first (R40, R42;
  log entry 3). -/
  inputs : List CommandVector
deriving DecidableEq, Repr

/-- Why a step stops with a fault. -/
inductive Fault where
  /-- R23 `unreset_read`: raised by CYCLE, TICK and CYCLE_TICK, and by a port read that uses a register,
  before the first RESET. Safe: the spec says that a model faults here. -/
  | unresetRead
deriving DecidableEq, Repr

/-- Why a step has no meaning. -/
inductive Refusal where
  /-- Raised by an arm of `exec` whose command has no meaning yet; no arm does. Safe. -/
  | notModelled (mnemonic : String)
  /-- Raised by `step` when the environment presents no further command: there is no clock edge to take
  (R136; log entry 3). Safe. -/
  | noCommandPresented
deriving DecidableEq, Repr

/-- The reset values of rule R22. -/
def Regs.atReset : Regs where
  currentPhase := 0
  phaseAcc := 0
  velocitySnapshot := 0
  dutyU := 128
  dutyV := 128
  dutyW := 128
  missSticky := false

/-- The machine right after RESET (R22, R132): it waits for a command, and none has been presented. -/
def State.reset : State where
  cfg := Config.unset
  stepRom := Config.freeStepRom
  indexRom := Config.freeIndexRom
  regs := Regs.atReset
  resetSeen := true
  inputs := []

end Sys2Proof.Machine
end

