-- ==== Sys2Proof/Machine/Flags.lean ====
section
/-! DEFINITION. The one status bit, `miss_sticky` (R16, R17). -/

namespace Sys2Proof.Machine

/-- `miss_sticky | miss` (R111): set by a cycle that missed, never cleared by one. -/
def stickyMiss (missSticky miss : Bool) : Bool := missSticky || miss

end Sys2Proof.Machine
end

