-- ==== Sys2Proof/Machine/Operands.lean ====
section
/-! DEFINITION. Operand assembly (R44): the waveform and its shifted estimates from the two samples
(R60 to R63), the clamps of amplitude and step (R91), and the packing of descriptors (R45, R46). -/

namespace Sys2Proof.Machine

/-- A value for each axis. -/
structure Triple where
  u : Byte
  v : Byte
  w : Byte
deriving DecidableEq, Repr

/-- The halved samples and the derived third axis (R60). -/
def waveBase (uSense vSense : Byte) : Triple :=
  let u := uSense >>> 1
  let v := vSense >>> 1
  { u := u, v := v, w := waveSum - u - v }

/-- The WaveformTriple: each axis offset by 64 modulo 256 (R61). -/
def waveform (uSense vSense : Byte) : Triple :=
  let base := waveBase uSense vSense
  { u := base.u + waveOffset, v := base.v + waveOffset, w := base.w + waveOffset }

/-- The high-frequency component of one axis (R62). -/
def highFreq (x : Byte) : Byte := (x >>> 2) - (x >>> 4)

/-- `z_u`, `z_v` and `z_w` (R62). -/
def components (uSense vSense : Byte) : Triple :=
  let wave := waveform uSense vSense
  { u := highFreq wave.u, v := highFreq wave.v, w := highFreq wave.w }

/-- The six shifted estimates. -/
structure Estimates where
  uDel : Byte
  vDel : Byte
  wDel : Byte
  uAdv : Byte
  vAdv : Byte
  wAdv : Byte
deriving DecidableEq, Repr

/-- The six subtractions, with the axis-to-companion pairing of rule R63. -/
def estimates (uSense vSense : Byte) : Estimates :=
  let wave := waveform uSense vSense
  let z := components uSense vSense
  { uDel := wave.u - z.v
    wAdv := wave.w - z.v
    vDel := wave.v - z.w
    uAdv := wave.u - z.w
    wDel := wave.w - z.u
    vAdv := wave.v - z.u }

/-- `min(amplitude, 61)` (R91). -/
def clampAmplitude (amplitude : Byte) : Fin (ampMax + 1) :=
  ⟨min amplitude.toNat ampMax, Nat.lt_succ_of_le (Nat.min_le_right _ _)⟩

/-- `min(step, 23)` (R91). -/
def clampStep (step : Byte) : Fin nPhases :=
  ⟨min step.toNat stepMax, Nat.lt_succ_of_le (Nat.min_le_right _ _)⟩

/-- The fields of a 4-bit descriptor: `col = d[1:0]`, `zero = d[2]`, `neg = d[3]` (R46). -/
def unpackDescriptor (d : DescriptorBits) : Descriptor where
  col := d.extractLsb' 0 2
  zero := d.getLsbD 2
  neg := d.getLsbD 3

/-- A descriptor as 4 bits (R46). -/
def packDescriptor (d : Descriptor) : DescriptorBits :=
  BitVec.ofBool d.neg ++ BitVec.ofBool d.zero ++ d.col

/-- The three descriptors of an `INDEX_ROM` word: u in `[3:0]`, v in `[7:4]`, w in `[11:8]` (R45, R92). -/
def unpackEntry (word : IndexWord) : IndexEntry where
  u := unpackDescriptor (word.extractLsb' 0 4)
  v := unpackDescriptor (word.extractLsb' 4 4)
  w := unpackDescriptor (word.extractLsb' 8 4)

/-- An IndexTable entry as a 12-bit word (R45). -/
def packEntry (e : IndexEntry) : IndexWord :=
  packDescriptor e.w ++ packDescriptor e.v ++ packDescriptor e.u

end Sys2Proof.Machine
end

