-- ==== Sys2Proof/Machine/Ops.lean ====
section
/-! DEFINITION. The operations the commands share: writing the registers at a clock edge (R34, R23), the
two ROM reads (R30, R33), and addition modulo `2^ACC_WIDTH` (R7, R83). The core takes no exception and
has no return from one (R120, R124, R125), so no such operation stands here. -/

namespace Sys2Proof.Machine

/-- A command's register writes, all landing together at its edge (R34). -/
def State.withRegs (s : State) (r : Regs) : State := { s with regs := r }

/-- The edge of a command that reads a register: it writes `r`, or faults where no RESET has been given
yet (R23). -/
def State.edge (s : State) (r : Regs) : Host.Outcome State Fault Refusal :=
  if s.resetSeen then .next (s.withRegs r) else .fault .unresetRead

/-- `StepROM(a, c)`: the cell at flat address `4*a + c` (R30). -/
def stepRomRead (rom : StepRom) (a : Fin (ampMax + 1)) (c : BitVec 2) : Magnitude :=
  rom.cells[4 * a.val + c.toNat]'(by
    have := a.isLt; have := c.isLt; have := rom.size; omega)

/-- `IndexROM(s)` (R30). -/
def indexRomRead (rom : IndexRom) (s : Fin nPhases) : IndexWord :=
  rom.words[s.val]'(by have := s.isLt; have := rom.size; omega)

/-- `a +W b`: addition modulo `2^ACC_WIDTH` (R7). -/
def accAdd (accWidth a b : Nat) : Nat := (a + b) % 2 ^ accWidth

end Sys2Proof.Machine
end

