-- ==== Sys2Proof/Machine/Detector.lean ====
section
/-! DEFINITION. The phase detector's decision cascade and the unit operation DETECT (R65 to R73). -/

namespace Sys2Proof.Machine

/-- The estimate a block's `_del` operand names (R66). -/
def Estimates.del (e : Estimates) : DelSel → Byte
  | .uDel => e.uDel
  | .vDel => e.vDel
  | .wDel => e.wDel

/-- The estimate an `_adv` operand names (R66). -/
def Estimates.adv (e : Estimates) : AdvSel → Byte
  | .uAdv => e.uAdv
  | .vAdv => e.vAdv
  | .wAdv => e.wAdv

/-- `cmp`: both operands as unsigned 8-bit integers (R66; C6). -/
def compareBytes : Rel → Byte → Byte → Bool
  | .lt, a, b => decide (a.toNat < b.toNat)
  | .le, a, b => decide (a.toNat ≤ b.toNat)
  | .gt, a, b => decide (a.toNat > b.toNat)
  | .ge, a, b => decide (a.toNat ≥ b.toNat)
  | .eq, a, b => decide (a.toNat = b.toNat)
  | .ne, a, b => decide (a.toNat ≠ b.toNat)

/-- `holds`: an atom of a block on the shifted estimates (R66). -/
def atomHolds (e : Estimates) (b : Block) : Atom → Bool
  | .delVsNeutral rel => compareBytes rel (e.del b.del) neutral
  | .advVsAdv rel => compareBytes rel (e.adv b.advA) (e.adv b.advB)

/-- A rule fires when every one of its atoms holds (R67). -/
def ruleFires (e : Estimates) (b : Block) (r : CascadeRule) : Bool :=
  r.conds.all (atomHolds e b)

/-- The rules of one block in list order, each that fires overwriting the phase held so far (R68, R69). -/
def scanRules (e : Estimates) (b : Block) (rules : List CascadeRule) (held : Option Nat) : Option Nat :=
  rules.foldl (fun p r => if ruleFires e b r then some r.phase else p) held

/-- The blocks in cascade order; `none` at the end is a miss (R68, R73). -/
def scanBlocks (e : Estimates) (blocks : List Block) (held : Option Nat) : Option Nat :=
  blocks.foldl (fun p b => scanRules e b b.rules p) held

/-- The cascade's decision for a sample pair: the phase of the last rule that fired, if any. -/
def decision (cfg : Config) (uSense vSense : Byte) : Option Nat :=
  scanBlocks (estimates uSense vSense) cfg.cascade.blocks none

/-- The detector's two outputs (R70). -/
structure Detection where
  phase : Phase
  miss : Bool
deriving DecidableEq, Repr

/-- The phase reported on a miss (R70). -/
def missResult (cfg : Config) (currentPhase : Phase) : Phase :=
  match cfg.missPolicy with
  | .defaultPhase => cfg.missPhase
  | .hold => currentPhase

/-- DETECT (R73). -/
def detect (cfg : Config) (currentPhase : Phase) (uSense vSense : Byte) : Detection :=
  match decision cfg uSense vSense with
  | some p => { phase := BitVec.ofNat 5 p, miss := false }
  | none => { phase := missResult cfg currentPhase, miss := true }

end Sys2Proof.Machine
end

