-- ==== Sys2Proof/Machine/Synthesizer.lean ====
section
/-! DEFINITION. The PWM duty table synthesizer, SYNTH (R90 to R95). -/

namespace Sys2Proof.Machine

/-- The magnitude of one output: the zero-extended cell, 0 when the descriptor forces it (R93). -/
def magnitude (rom : StepRom) (a : Fin (ampMax + 1)) (d : Descriptor) : Byte :=
  if d.zero then 0 else (stepRomRead rom a d.col).setWidth 8

/-- One output: `128 - m` when the descriptor negates, else `128 + m` (R94). -/
def dutyOf (rom : StepRom) (a : Fin (ampMax + 1)) (d : Descriptor) : Byte :=
  if d.neg then dutyCenter - magnitude rom a d else dutyCenter + magnitude rom a d

/-- SYNTH (R95): the DutyTriple for a commanded amplitude and step. -/
def synth (stepRom : StepRom) (indexRom : IndexRom) (amplitude step : Byte) : Triple :=
  let a := clampAmplitude amplitude
  let entry := unpackEntry (indexRomRead indexRom (clampStep step))
  { u := dutyOf stepRom a entry.u, v := dutyOf stepRom a entry.v, w := dutyOf stepRom a entry.w }

end Sys2Proof.Machine
end

