-- ==== Sys2Proof/Machine/Tracker.lean ====
section
/-! DEFINITION. The phase tracker's forward distance and contribution (R80 to R82). TRACK's register
writes (R85) are part of the commands that use it. -/

namespace Sys2Proof.Machine

/-- `raw_diff`: the exact difference, plus 24 when it is negative (R80). -/
def rawDiff (detPhase currentPhase : Phase) : Int :=
  let d : Int := (detPhase.toNat : Int) - currentPhase.toNat
  if d < 0 then d + nPhases else d

/-- `contrib`: 0 for a distance of 12 or more (R81, R82). A negative distance, which only a
`current_phase` outside 0..23 could give, counts 0 (log entry 13). -/
def contribution (detPhase currentPhase : Phase) : Nat :=
  let d := rawDiff detPhase currentPhase
  if d ≥ jumpLimit then 0 else d.toNat

end Sys2Proof.Machine
end

