-- ==== Sys2Proof/Machine/Commands.lean ====
section
/-! DEFINITION. The commands NOP, CYCLE, TICK and CYCLE_TICK (R110 to R113). Each reads the registers as
they are before its edge and writes them together at it (R34); a register not named keeps its value. -/

namespace Sys2Proof.Machine

/-- NOP (R110): no register is read or written. -/
def execNop (s : State) : Host.Outcome State Fault Refusal := .next s

/-- The registers after DETECT, TRACK and SYNTH but for the two that a tick also writes: the phase, the
duty triple and the miss bit (R84, R15, R16; the part CYCLE and CYCLE_TICK share). -/
def controlRegs (s : State) (uSense vSense amplitude step : Byte) : Regs :=
  let det := detect s.cfg s.regs.currentPhase uSense vSense
  let duty := synth s.stepRom s.indexRom amplitude step
  { s.regs with
    currentPhase := det.phase
    dutyU := duty.u
    dutyV := duty.v
    dutyW := duty.w
    missSticky := stickyMiss s.regs.missSticky det.miss }

/-- This cycle's contribution to the accumulator (R82), from the phase detected and the one held. -/
def cycleContribution (s : State) (uSense vSense : Byte) : Nat :=
  contribution (detect s.cfg s.regs.currentPhase uSense vSense).phase s.regs.currentPhase

/-- CYCLE (R111): the contribution is added to the accumulator (R83). -/
def execCycle (uSense vSense amplitude step : Byte) (s : State) : Host.Outcome State Fault Refusal :=
  s.edge
    { controlRegs s uSense vSense amplitude step with
      phaseAcc := accAdd s.cfg.accWidth s.regs.phaseAcc (cycleContribution s uSense vSense) }

/-- TICK (R112): SAMPLE (R100). -/
def execTick (s : State) : Host.Outcome State Fault Refusal :=
  s.edge { s.regs with velocitySnapshot := s.regs.phaseAcc, phaseAcc := 0 }

/-- The snapshot CYCLE_TICK takes: the old sum, or the sum with this cycle's contribution (R113). -/
def tickSnapshot (cfg : Config) (acc contrib : Nat) : Nat :=
  match cfg.tickOrder with
  | .tickFirst => acc
  | .updateFirst => accAdd cfg.accWidth acc contrib

/-- What CYCLE_TICK leaves in the accumulator: this cycle's contribution, or 0 (R113). -/
def tickRemainder (cfg : Config) (contrib : Nat) : Nat :=
  match cfg.tickOrder with
  | .tickFirst => contrib
  | .updateFirst => 0

/-- CYCLE_TICK (R113): a control cycle and a tick at one edge. -/
def execCycleTick (uSense vSense amplitude step : Byte) (s : State) : Host.Outcome State Fault Refusal :=
  s.edge
    { controlRegs s uSense vSense amplitude step with
      velocitySnapshot := tickSnapshot s.cfg s.regs.phaseAcc (cycleContribution s uSense vSense)
      phaseAcc := tickRemainder s.cfg (cycleContribution s uSense vSense) }

end Sys2Proof.Machine
end

