-- ==== Sys2Proof/Machine/Reset.lean ====
section
/-! DEFINITION. The command RESET (R130). -/

namespace Sys2Proof.Machine

/-- The values RESET loads (R130). -/
def resetValues : Regs where
  currentPhase := 0
  phaseAcc := 0
  velocitySnapshot := 0
  dutyU := dutyCenter
  dutyV := dutyCenter
  dutyW := dutyCenter
  missSticky := false

/-- RESET (R130): every register is loaded, whatever it held; ROMs and configuration stay. From here on
the registers may be read (R23). -/
def execReset (s : State) : Host.Outcome State Fault Refusal :=
  .next { s.withRegs resetValues with resetSeen := true }

end Sys2Proof.Machine
end

