-- ==== Sys2Proof/Machine/Dispatch.lean ====
section
/-! DEFINITION. One arm per command: the meaning each runs (R42). -/

namespace Sys2Proof.Machine

def exec (i : Instr) (s : State) : Host.Outcome State Fault Refusal :=
  match i with
  | .nop => Sys2Proof.Machine.execNop s
  | .cycle u v a n => Sys2Proof.Machine.execCycle u v a n s
  | .tick => Sys2Proof.Machine.execTick s
  | .cycleTick u v a n => Sys2Proof.Machine.execCycleTick u v a n s
  | .reset => Sys2Proof.Machine.execReset s

end Sys2Proof.Machine
end

