-- ==== Sys2Proof/Machine/Step.lean ====
section
/-! DEFINITION. One clock edge (R40): the core samples the command vector at its input ports and runs its
command; the environment then presents the next vector (R136). -/

namespace Sys2Proof.Machine

/-- One rising edge of `clk`. -/
def step (s : State) : Host.Outcome State Fault Refusal :=
  match s.inputs with
  | [] => .refused .noCommandPresented
  | v :: later => exec (decode v) { s with inputs := later }

/-- The state with the table word's vector at the input ports for the coming edge (log entry 4). -/
def State.withFetchWord (s : State) (nbits w : Nat) : State :=
  { s with inputs := vectorOfTableWord nbits w :: s.inputs.tail }

end Sys2Proof.Machine
end

