-- ==== Sys2Proof/Machine/Boot.lean ====
section
/-! DEFINITION. Configuration time (R133): a parameter list is checked, the two ROMs are built from its
tables in the layout of rules R30 and R45, and the core powers up with unspecified registers (R23). Also
the sum-to-neutral check of the tables, which reports and does not refuse (R99). -/

namespace Sys2Proof.Machine

/-- The STEP_ROM cells of a table, row by row: cell (a, c) lands at `4*a + c` (R30). -/
def stepCells (table : List (List Int)) : List Magnitude :=
  table.flatten.map (BitVec.ofInt 7)

/-- The INDEX_ROM words of a table (R45, R97). -/
def indexWords (table : List IndexEntry) : List IndexWord := table.map packEntry

/-- What a parameter list configures. -/
structure Setup where
  cfg : Config
  stepRom : StepRom
  indexRom : IndexRom
deriving DecidableEq, Repr

/-- A parameter list without failures passes each check. -/
theorem passes_of_failures_nil {p : Params} (h : p.failures = []) (c : ConfigError) :
    p.passes c = true := by
  have := List.filter_eq_nil_iff.mp h c (by cases c <;> decide)
  simpa using this

/-- A table of the right shape fills the step ROM. -/
theorem stepCells_length {table : List (List Int)} (h : tableShape table = true) :
    (stepCells table).length = 4 * (ampMax + 1) := by
  simp only [tableShape, Bool.and_eq_true, decide_eq_true_eq, List.all_eq_true] at h
  obtain ⟨rows, cols⟩ := h
  have : ∀ t : List (List Int), (∀ r ∈ t, r.length = 4) → t.flatten.length = 4 * t.length := by
    intro t
    induction t with
    | nil => simp
    | cons r t ih =>
      intro hr
      have h1 := hr r (by simp)
      have h2 := ih fun x hx => hr x (by simp [hx])
      simp only [List.flatten_cons, List.length_append, List.length_cons]
      omega
  rw [stepCells, List.length_map, this table cols, rows]

/-- Row 0 of the table is row 0 of the ROM. -/
theorem stepCells_row0 {table : List (List Int)} (shape : tableShape table = true)
    (h : tableRow0 table = true) :
    ((stepCells table).take 4).all (fun m => decide (m = 0)) = true := by
  simp only [tableShape, Bool.and_eq_true, decide_eq_true_eq, List.all_eq_true] at shape
  obtain ⟨rows, cols⟩ := shape
  cases table with
  | nil => simp [stepCells]
  | cons r t =>
    have hr := cols r (by simp)
    simp only [tableRow0, List.take_succ_cons, List.take_zero, List.all_cons, List.all_nil,
      Bool.and_true, List.all_eq_true, decide_eq_true_eq] at h
    simp only [stepCells, List.flatten_cons, List.map_append, List.all_eq_true, decide_eq_true_eq]
    rw [List.take_append_of_le_length (by simp [hr]), List.take_of_length_le (by simp [hr])]
    intro m hm
    obtain ⟨c, hc, rfl⟩ := List.mem_map.mp hm
    rw [h c hc]
    decide

/-- A table that holds a 127 gives a ROM that holds one. -/
theorem stepCells_max {table : List (List Int)} (h : tableMax table = true) :
    (stepCells table).any (fun m => decide (m = 127)) = true := by
  simp only [tableMax, List.any_eq_true, decide_eq_true_eq] at h
  obtain ⟨r, hr, c, hc, rfl⟩ := h
  simp only [stepCells, List.any_eq_true, decide_eq_true_eq]
  exact ⟨_, List.mem_map.mpr ⟨_, List.mem_flatten.mpr ⟨r, hr, hc⟩, rfl⟩, by decide⟩

/-- The setup of a parameter list that fails no check. -/
def setupOf (p : Params) (h : p.failures = []) : Setup where
  cfg :=
    { accWidth := p.accWidth
      accWidthOk := by simpa [Params.passes] using passes_of_failures_nil h .accWidthMin
      cascade :=
        { blocks := p.cascade
          sixBlocks := by simpa [Params.passes] using passes_of_failures_nil h .wfSixBlocks
          blockOrder := by simpa [Params.passes] using passes_of_failures_nil h .wfBlockOrder
          phaseRange := passes_of_failures_nil h .wfPhaseRange
          advDistinct := passes_of_failures_nil h .wfAdvDistinct }
      missPolicy := p.missPolicy
      missPhase := BitVec.ofNat 5 p.missPhase
      missPhaseOk := by
        have := passes_of_failures_nil h .missPhaseRange
        simp only [Params.passes, decide_eq_true_eq] at this
        simp only [BitVec.toNat_ofNat]
        exact lt_of_le_of_lt (Nat.mod_le _ _) this
      tickOrder := p.tickOrder
      sumTol := p.sumTol }
  stepRom :=
    { cells := stepCells p.stepTable
      size := stepCells_length (passes_of_failures_nil h .stShape)
      row0 := stepCells_row0 (passes_of_failures_nil h .stShape) (passes_of_failures_nil h .stRow0)
      max := stepCells_max (passes_of_failures_nil h .stMax) }
  indexRom :=
    { words := indexWords p.indexTable
      size := by
        have := passes_of_failures_nil h .itShape
        simpa [Params.passes, indexWords] using this }

/-- Configuration (R133 step 1): the setup, or every check the parameter list fails. -/
def configure (p : Params) : Except (List ConfigError) Setup :=
  if h : p.failures = [] then .ok (setupOf p h) else .error p.failures

/-- The core as it powers up, before any RESET: `regs` stands for the unspecified contents, which no
command and no port can read (R23), and `inputs` for what the environment will present. -/
def Setup.powerUp (setup : Setup) (regs : Regs) (inputs : List CommandVector) : State where
  cfg := setup.cfg
  stepRom := setup.stepRom
  indexRom := setup.indexRom
  regs := regs
  resetSeen := false
  inputs := inputs

/-- `(out_u - 128) + (out_v - 128) + (out_w - 128)` for one operand pair, exactly (R99). -/
def dutySum (setup : Setup) (amplitude step : Byte) : Int :=
  let duty := synth setup.stepRom setup.indexRom amplitude step
  ((duty.u.toNat : Int) - 128) + ((duty.v.toNat : Int) - 128) + ((duty.w.toNat : Int) - 128)

/-- Every pair (amplitude, step) in 0..61 and 0..23 whose duty sum is farther from 0 than `SUM_TOL`: what
the configuration check flags (R99). -/
def sumToNeutralFlags (setup : Setup) : List (Nat × Nat) :=
  (List.range (ampMax + 1)).flatMap fun a =>
    ((List.range nPhases).filter fun s =>
      decide ((dutySum setup (BitVec.ofNat 8 a) (BitVec.ofNat 8 s)).natAbs > setup.cfg.sumTol)).map
        fun s => (a, s)

end Sys2Proof.Machine
end

