-- ==== Sys2Proof/Machine/Ports.lean ====
section
/-! DEFINITION. The output ports (R41). The register ports show their registers; `det_phase` and
`det_miss` are combinational on the samples then at the input ports (R21, R142), each a read of its own. A
read that uses a register faults before the first RESET (R23). No port shows `phase_acc` (R13, R129). -/

namespace Sys2Proof.Machine

/-- A port driven by a register. -/
def State.registerPort {α : Type} (s : State) (read : Regs → α) : Except Fault α :=
  if s.resetSeen then .ok (read s.regs) else .error .unresetRead

/-- The port `current_phase`. -/
def State.currentPhasePort (s : State) : Except Fault Phase := s.registerPort Regs.currentPhase

/-- The port `velocity_snapshot`. -/
def State.velocitySnapshotPort (s : State) : Except Fault Nat := s.registerPort Regs.velocitySnapshot

/-- The ports `duty_u`, `duty_v` and `duty_w`. -/
def State.dutyPorts (s : State) : Except Fault Triple :=
  s.registerPort fun r => { u := r.dutyU, v := r.dutyV, w := r.dutyW }

/-- The port `miss_sticky`. -/
def State.missStickyPort (s : State) : Except Fault Bool := s.registerPort Regs.missSticky

/-- The port `det_miss` while `uSense` and `vSense` are present: 1 when the cascade fires no rule for them
(R41, R70). It uses no register, so it can be read at any time. -/
def State.detMissPort (s : State) (uSense vSense : Byte) : Bool := (decision s.cfg uSense vSense).isNone

/-- The port `det_phase` while `uSense` and `vSense` are present (R41, R70). It uses a register, the held
phase, exactly on a miss under HOLD (R72), so only that read can fault (log entry 12). -/
def State.detPhasePort (s : State) (uSense vSense : Byte) : Except Fault Phase :=
  match decision s.cfg uSense vSense, s.cfg.missPolicy with
  | some p, _ => .ok (BitVec.ofNat 5 p)
  | none, .defaultPhase => .ok s.cfg.missPhase
  | none, .hold => s.currentPhasePort

/-- `det_miss` for the vector now at the input ports, whatever its command; `none` when the environment
presents nothing. -/
def State.presentDetMissPort (s : State) : Option Bool :=
  s.inputs.head?.map fun (v : CommandVector) => s.detMissPort v.uSense v.vSense

/-- `det_phase` for the vector now at the input ports, likewise. -/
def State.presentDetPhasePort (s : State) : Option (Except Fault Phase) :=
  s.inputs.head?.map fun (v : CommandVector) => s.detPhasePort v.uSense v.vSense

end Sys2Proof.Machine
end

