-- ==== Sys2Proof/Machine/Program.lean ====
section
/-! DEFINITION. The program syntax (R51): a line names one command and its operands, and stands for one
command vector. Text is a list of characters. -/

namespace Sys2Proof.Machine

/-- Why a line is no line of the syntax. -/
inductive LineError where
  /-- The first word is none of NOP, CYCLE, TICK, CYCLE_TICK and RESET. -/
  | unknownCommand
  /-- The words after the command are not the ones it takes, in their order. -/
  | wrongOperands
  /-- An operand is not `decimal 0..255` or `"0x" hex 00..FF`. -/
  | badNumber
deriving DecidableEq, Repr

/-- The digits of rule R51's two number forms in the order of their values: the first ten are the decimal
ones. -/
def digitOrder : List Char := "0123456789ABCDEF".toList

/-- The value of a digit of a base up to 16: its place in the order. -/
def digitValue (base : Nat) (c : Char) : Option Nat := (digitOrder.take base).idxOf? c

/-- The value of a row of digits of a base, the most significant first, read on from `high`. -/
def numeralFrom (base high : Nat) : List Char → Option Nat
  | [] => some high
  | c :: low => (digitValue base c).bind fun d => numeralFrom base (base * high + d) low

/-- A value as an operand, if it is in 0..255. -/
def byteOf (n : Nat) : Option Byte := if n < 256 then some (BitVec.ofNat 8 n) else none

/-- `n ::= decimal 0..255 | "0x" hex 00..FF`. A hexadecimal digit may be written in either case
(log entry 11). -/
def parseNumber : List Char → Option Byte
  | [] => none
  | ['0', 'x', high, low] => (numeralFrom 16 0 [high.toUpper, low.toUpper]).bind byteOf
  | decimal => (numeralFrom 10 0 decimal).bind byteOf

/-- The text after a literal prefix. -/
def afterPrefix : List Char → List Char → Option (List Char)
  | [], text => some text
  | p :: ps, c :: cs => if p = c then afterPrefix ps cs else none
  | _ :: _, [] => none

/-- An operand word `name=n`. -/
def parseOperand (name text : List Char) : Except LineError Byte :=
  match afterPrefix name text with
  | none => .error .wrongOperands
  | some digits =>
    match parseNumber digits with
    | some n => .ok n
    | none => .error .badNumber

/-- The four operand words of CYCLE and CYCLE_TICK. -/
def parseOperands (make : Byte → Byte → Byte → Byte → Instr) : List (List Char) → Except LineError Instr
  | [u, v, a, s] => do
    let u ← parseOperand ['u', '='] u
    let v ← parseOperand ['v', '='] v
    let a ← parseOperand ['a', 'm', 'p', '='] a
    let s ← parseOperand ['s', 't', 'e', 'p', '='] s
    return make u v a s
  | _ => .error .wrongOperands

/-- A command without operands. -/
def parseBare (i : Instr) : List (List Char) → Except LineError Instr
  | [] => .ok i
  | _ => .error .wrongOperands

/-- The line without its comment `; …`. -/
def stripComment : List Char → List Char
  | ';' :: ' ' :: _ => []
  | c :: cs => c :: stripComment cs
  | [] => []

/-- The words of a text between single spaces. -/
def wordsOf : List Char → List (List Char)
  | [] => [[]]
  | c :: cs =>
    if c = ' ' then [] :: wordsOf cs
    else
      match wordsOf cs with
      | [] => [[c]]
      | w :: ws => (c :: w) :: ws

/-- The command a line names. -/
def parseLine (line : List Char) : Except LineError Instr :=
  match wordsOf (stripComment line) with
  | ['N', 'O', 'P'] :: rest => parseBare .nop rest
  | ['T', 'I', 'C', 'K'] :: rest => parseBare .tick rest
  | ['R', 'E', 'S', 'E', 'T'] :: rest => parseBare .reset rest
  | ['C', 'Y', 'C', 'L', 'E'] :: rest => parseOperands .cycle rest
  | ['C', 'Y', 'C', 'L', 'E', '_', 'T', 'I', 'C', 'K'] :: rest => parseOperands .cycleTick rest
  | _ => .error .unknownCommand

/-- The vector a line encodes to. -/
def assembleLine (line : List Char) : Except LineError CommandVector := encode <$> parseLine line

/-- The vectors of a program, one a line (R51). -/
def assemble : List (List Char) → Except LineError (List CommandVector)
  | [] => .ok []
  | line :: lines => do
    let v ← assembleLine line
    let vs ← assemble lines
    return v :: vs

/-- The two forms of a number (R51). -/
inductive NumberForm where
  | decimal | hex
deriving DecidableEq, Repr

/-- The form in which each operand of a line is written. -/
structure OperandForms where
  u : NumberForm
  v : NumberForm
  amp : NumberForm
  step : NumberForm
deriving DecidableEq, Repr

/-- The character of a digit. -/
def digitChar (n : Nat) : Char := digitOrder.getD n '?'

/-- A byte in decimal without leading zeros, or as `0x` and two hexadecimal digits. -/
def printNumber : NumberForm → Byte → List Char
  | .decimal, b =>
    let n := b.toNat
    if n < 10 then [digitChar n]
    else if n < 100 then [digitChar (n / 10), digitChar (n % 10)]
    else [digitChar (n / 100), digitChar (n / 10 % 10), digitChar (n % 10)]
  | .hex, b => ['0', 'x', digitChar (b.toNat / 16), digitChar (b.toNat % 16)]

/-- The operand words of a line, each after a space. -/
def printOperands (forms : OperandForms) (u v a s : Byte) : List Char :=
  [' ', 'u', '='] ++ printNumber forms.u u ++ [' ', 'v', '='] ++ printNumber forms.v v
    ++ [' ', 'a', 'm', 'p', '='] ++ printNumber forms.amp a
    ++ [' ', 's', 't', 'e', 'p', '='] ++ printNumber forms.step s

/-- The line of a command, its operands in the given forms. -/
def printLine (forms : OperandForms) : Instr → List Char
  | .nop => ['N', 'O', 'P']
  | .cycle u v a s => ['C', 'Y', 'C', 'L', 'E'] ++ printOperands forms u v a s
  | .tick => ['T', 'I', 'C', 'K']
  | .cycleTick u v a s =>
    ['C', 'Y', 'C', 'L', 'E', '_', 'T', 'I', 'C', 'K'] ++ printOperands forms u v a s
  | .reset => ['R', 'E', 'S', 'E', 'T']

/-- The machine with a program's vectors to be presented, in order (R51, R136). -/
def State.withProgram (s : State) (vectors : List CommandVector) : State := { s with inputs := vectors }

end Sys2Proof.Machine
end

