-- ==== Sys2Proof/Safety.lean ====
section
/-! DEFINITION. What claims about runs are stated in: the legal register values, runs of commands, and the
tally of contributions and velocity samples that rule R103 speaks of. -/

namespace Sys2Proof.Machine

/-- The values the registers may hold: the phase in 0..23 (R12), the accumulator and the snapshot within
`ACC_WIDTH` bits (R13, R14), and a duty in 1..255 (R94). -/
structure Regs.Legal (cfg : Config) (r : Regs) : Prop where
  phase : r.currentPhase.toNat < nPhases
  acc : r.phaseAcc < 2 ^ cfg.accWidth
  snapshot : r.velocitySnapshot < 2 ^ cfg.accWidth
  dutyU : 1 ≤ r.dutyU.toNat
  dutyV : 1 ≤ r.dutyV.toNat
  dutyW : 1 ≤ r.dutyW.toNat

/-- The machine's invariant: once a RESET has been given, the registers are legal (R24). -/
def State.Inv (s : State) : Prop := s.resetSeen = true → s.regs.Legal s.cfg

/-- Commands given one after another (R34), stopping at the first that does not complete. -/
def runCommands : List Instr → State → Host.Outcome State Fault Refusal
  | [], s => .next s
  | i :: later, s =>
    match exec i s with
    | .next t => runCommands later t
    | .fault f => .fault f
    | .refused r => .refused r

end Sys2Proof.Machine

namespace Sys2Proof

open Machine

/-- The commands that run a control cycle, with their samples. -/
def Instr.samples? : Instr → Option (Byte × Byte)
  | .cycle u v _ _ => some (u, v)
  | .cycleTick u v _ _ => some (u, v)
  | .nop | .tick | .reset => none

/-- The commands that take a velocity sample. -/
def Instr.takesSample : Instr → Bool
  | .tick | .cycleTick _ _ _ _ => true
  | .nop | .cycle _ _ _ _ | .reset => false

end Sys2Proof

namespace Sys2Proof.Machine

/-- The contribution a command makes in a state (R82): that of its control cycle, if it runs one. -/
def contributedBy (i : Instr) (s : State) : Nat :=
  match i.samples? with
  | some (u, v) => cycleContribution s u v
  | none => 0

/-- The snapshot value a command wrote, read from the state after it; 0 if it takes no sample. -/
def sampledBy (i : Instr) (after : State) : Nat :=
  if i.takesSample then after.regs.velocitySnapshot else 0

/-- A state with the sums of rule R103 since the last RESET: of every snapshot value written and of every
contribution made. -/
structure Tally where
  state : State
  snapshots : Nat
  contributions : Nat

/-- The sum equation of rule R103: snapshots and accumulator together hold every contribution, modulo
`2^ACC_WIDTH`. -/
def Tally.Balanced (tally : Tally) : Prop :=
  (tally.snapshots + tally.state.regs.phaseAcc) % 2 ^ tally.state.cfg.accWidth =
    tally.contributions % 2 ^ tally.state.cfg.accWidth

/-- The tally after one more command; RESET starts both sums anew. -/
def Tally.command (i : Instr) (tally : Tally) : Option Tally :=
  match exec i tally.state with
  | .next t =>
    some (if i = .reset then { state := t, snapshots := 0, contributions := 0 }
      else
        { state := t
          snapshots := tally.snapshots + sampledBy i t
          contributions := tally.contributions + contributedBy i tally.state })
  | .fault _ => none
  | .refused _ => none

/-- The tally after a list of commands. -/
def Tally.run : List Instr → Tally → Option Tally
  | [], tally => some tally
  | i :: later, tally => (tally.command i).bind (Tally.run later)

end Sys2Proof.Machine
end

