-- ==== Sys2Proof/Certificates/Slice0/Obligations.lean ====
section
/-! DEFINITION. The statements about the model, for the provers. A statement about every state holds in
every state; where it needs legal registers it takes `State.Inv` or the one fact it uses as a premise. -/

open Sys2Proof Sys2Proof.Machine

/-! ### What each command does -/

/-- R110: NOP completes in every state, also before the first RESET, and writes no register; a vector with
`cmd = 000` runs it whatever its operand fields hold, and the detector ports go on following the samples
present. -/
def Obligations.NopChangesNothing : Prop :=
  (∀ s : State, exec .nop s = .next s) ∧
  (∀ (s : State) (v : CommandVector) (later : List CommandVector),
    s.inputs = v :: later → v.cmd = 0b000 → step s = .next { s with inputs := later } ∧
      ∀ u w : Byte, State.detPhasePort { s with inputs := later } u w = s.detPhasePort u w ∧
        State.detMissPort { s with inputs := later } u w = s.detMissPort u w)

/-- From R111: after a RESET, CYCLE completes and leaves exactly this state: the contribution of rules R80 and
R82 is added modulo `2^ACC_WIDTH`, the detected phase, the duty triple and the miss bit are written, and
the snapshot, the ROMs, the configuration and the pending inputs are as before. For a held phase in 0..23
this is R111 exactly; that a distance still negative, which only a held phase of 24..31 could give, counts 0
(`Int.toNat`) is the model's choice of log entry 13. A vector with `cmd = 001` runs it with that vector's
operand fields. -/
def Obligations.CycleRunsOneControlCycle : Prop :=
  (∀ (s : State) (u v a n : Byte), s.resetSeen = true →
    let det := detect s.cfg s.regs.currentPhase u v
    let duty := synth s.stepRom s.indexRom a n
    let d : Int := (det.phase.toNat : Int) - s.regs.currentPhase.toNat
    let distance : Int := if d < 0 then d + 24 else d
    let contrib : Int := if distance ≥ 12 then 0 else distance
    exec (.cycle u v a n) s = .next { s with
      regs := { currentPhase := det.phase
                phaseAcc := (s.regs.phaseAcc + contrib.toNat) % 2 ^ s.cfg.accWidth
                velocitySnapshot := s.regs.velocitySnapshot
                dutyU := duty.u, dutyV := duty.v, dutyW := duty.w
                missSticky := s.regs.missSticky || det.miss } }) ∧
  (∀ (s : State) (v : CommandVector) (later : List CommandVector),
    s.inputs = v :: later → v.cmd = 0b001 →
      step s = exec (.cycle v.uSense v.vSense v.amplitude v.step) { s with inputs := later })

/-- R112, R100: after a RESET, TICK completes, moves the accumulator into the snapshot and clears it, and
changes nothing else. A vector with `cmd = 010` runs it whatever its operand fields hold. -/
def Obligations.TickSamplesAndClears : Prop :=
  (∀ s : State, s.resetSeen = true →
    exec .tick s = .next { s with
      regs := { s.regs with velocitySnapshot := s.regs.phaseAcc, phaseAcc := 0 } }) ∧
  (∀ (s : State) (v : CommandVector) (later : List CommandVector),
    s.inputs = v :: later → v.cmd = 0b010 → step s = exec .tick { s with inputs := later })

/-- From R113: after a RESET, CYCLE_TICK completes and leaves exactly this state, under either order.
For a held phase in 0..23 this is R113 exactly; that a distance still negative, which only a held phase of
24..31 could give, counts 0 (`Int.toNat`) is the model's choice of log entry 13. A vector with `cmd = 011`
runs it with that vector's operand fields. The default order is TICK_FIRST. -/
def Obligations.CycleTickRunsBothAtOneEdge : Prop :=
  (∀ (s : State) (u v a n : Byte), s.resetSeen = true →
    let det := detect s.cfg s.regs.currentPhase u v
    let duty := synth s.stepRom s.indexRom a n
    let d : Int := (det.phase.toNat : Int) - s.regs.currentPhase.toNat
    let distance : Int := if d < 0 then d + 24 else d
    let contrib : Int := if distance ≥ 12 then 0 else distance
    exec (.cycleTick u v a n) s = .next { s with
      regs := { currentPhase := det.phase
                phaseAcc := if s.cfg.tickOrder = .tickFirst then contrib.toNat else 0
                velocitySnapshot :=
                  if s.cfg.tickOrder = .tickFirst then s.regs.phaseAcc
                  else (s.regs.phaseAcc + contrib.toNat) % 2 ^ s.cfg.accWidth
                dutyU := duty.u, dutyV := duty.v, dutyW := duty.w
                missSticky := s.regs.missSticky || det.miss } }) ∧
  (∀ (s : State) (v : CommandVector) (later : List CommandVector),
    s.inputs = v :: later → v.cmd = 0b011 →
      step s = exec (.cycleTick v.uSense v.vSense v.amplitude v.step) { s with inputs := later }) ∧
  State.reset.cfg.tickOrder = .tickFirst

/-- R130: RESET completes in every state and loads the reset values; the ROMs, the configuration and the
pending inputs stay. A vector whose bit 34 is set runs it, whatever `tick`, `cycle` and the operand fields
hold. -/
def Obligations.ResetLoadsItsValues : Prop :=
  (∀ s : State, exec .reset s = .next { s with
    regs := { currentPhase := 0, phaseAcc := 0, velocitySnapshot := 0
              dutyU := 128, dutyV := 128, dutyW := 128, missSticky := false }
    resetSeen := true }) ∧
  (∀ (s : State) (v : CommandVector) (later : List CommandVector),
    s.inputs = v :: later → v.getLsbD 34 = true → step s = exec .reset { s with inputs := later })

/-- R22: the registers of the reset state. -/
def Obligations.ResetStateHoldsTheResetValues : Prop :=
  State.reset.regs.currentPhase = 0 ∧ State.reset.regs.phaseAcc = 0 ∧
  State.reset.regs.velocitySnapshot = 0 ∧ State.reset.regs.dutyU = 128 ∧
  State.reset.regs.dutyV = 128 ∧ State.reset.regs.dutyW = 128 ∧
  State.reset.regs.missSticky = false ∧ ∀ s : State, exec .reset s = .next { s with
    regs := State.reset.regs, resetSeen := true }

/-- From R23, R70 and R72: before the first RESET the commands that read a register fault whole with
`unreset_read` (the model's reading, log entry 5), and so does every port read that uses one. `det_phase`
uses one exactly on a miss under HOLD (the model's reading, log entry 12) and elsewhere shows the fired rule's
phase or MISS_PHASE; `det_miss` uses none and shows the miss. -/
def Obligations.ReadBeforeResetFaults : Prop :=
  ∀ s : State, s.resetSeen = false →
    exec .tick s = .fault .unresetRead ∧
    (∀ u v a n : Byte, exec (.cycle u v a n) s = .fault .unresetRead ∧
      exec (.cycleTick u v a n) s = .fault .unresetRead) ∧
    s.currentPhasePort = .error .unresetRead ∧ s.velocitySnapshotPort = .error .unresetRead ∧
    s.dutyPorts = .error .unresetRead ∧ s.missStickyPort = .error .unresetRead ∧
    ∀ u v : Byte,
      (s.detPhasePort u v = .error .unresetRead ↔
        (decision s.cfg u v = none ∧ s.cfg.missPolicy = .hold)) ∧
      (∀ p, decision s.cfg u v = some p → s.detPhasePort u v = .ok (BitVec.ofNat 5 p)) ∧
      (decision s.cfg u v = none → s.cfg.missPolicy = .defaultPhase →
        s.detPhasePort u v = .ok s.cfg.missPhase) ∧
      (s.detMissPort u v = true ↔ decision s.cfg u v = none)

/-! ### Edges and runs -/

/-- A step runs the command that the vector at the input ports decodes to, on the machine whose
environment has moved on to the next vector (R40, R42; the list of vectors is log entry 3). -/
def Obligations.StepRunsThePresentedCommand : Prop :=
  ∀ (s : State) (v : CommandVector) (later : List CommandVector), s.inputs = v :: later →
    step s = exec (decode v) { s with inputs := later }

/-- The model's choice of log entry 3: with no vector presented there is no edge to take. -/
def Obligations.NothingPresentedStops : Prop :=
  ∀ s : State, s.inputs = [] → step s = .refused .noCommandPresented

/-- R34, R136: the run of a machine over all the vectors presented to it is the run of their commands, in
their order, each on the state the one before it left. -/
def Obligations.RunIsItsCommandsInOrder : Prop :=
  ∀ s : State, Sys2Proof.core.run s.inputs.length s =
    runCommands (s.inputs.map decode) { s with inputs := [] }

/-- R120, R136: once a RESET has been given, no sequence of commands stops the core. -/
def Obligations.NoCommandStopsTheCoreAfterReset : Prop :=
  ∀ (commands : List Instr) (s : State), s.resetSeen = true →
    ∃ t, runCommands commands s = .next t ∧ t.resetSeen = true

/-! ### Encoding -/

/-- R42: every value of `cmd` decodes to its row's command, with the operand fields of rule R43. -/
def Obligations.EveryCmdValueDecodes : Prop :=
  ∀ v : CommandVector,
    (v.extractLsb' 32 3 = 0b000 → decode v = .nop) ∧
    (v.extractLsb' 32 3 = 0b001 → decode v = .cycle (v.extractLsb' 24 8) (v.extractLsb' 16 8)
      (v.extractLsb' 8 8) (v.extractLsb' 0 8)) ∧
    (v.extractLsb' 32 3 = 0b010 → decode v = .tick) ∧
    (v.extractLsb' 32 3 = 0b011 → decode v = .cycleTick (v.extractLsb' 24 8) (v.extractLsb' 16 8)
      (v.extractLsb' 8 8) (v.extractLsb' 0 8)) ∧
    (v.getLsbD 34 = true → decode v = .reset)

/-- Vectors of the spec's programs P1 to P3, written out in hexadecimal, decode to their lines. -/
def Obligations.WrittenVectorsDecode : Prop :=
  decode 0x000000000 = .nop ∧ decode 0x1223A3D02 = .cycle 34 58 61 2 ∧ decode 0x200000000 = .tick ∧
  decode 0x3223A0000 = .cycleTick 34 58 0 0 ∧ decode 0x400000000 = .reset ∧ decode 0x600000000 = .reset

/-- Every command, with every operand value, decodes back from the vector it encodes to. -/
def Obligations.EncodedCommandDecodesBack : Prop := ∀ i : Instr, decode (encode i) = i

/-- R51 with R43: the line written for any command, each operand in decimal or in hexadecimal, with or
without a comment after it, assembles to a vector that decodes to that command. -/
def Obligations.ProgramLineAssemblesToItsCommand : Prop :=
  ∀ (forms : OperandForms) (i : Instr) (comment : List Char),
    (∃ v, assembleLine (printLine forms i) = .ok v ∧ decode v = i) ∧
    (∃ v, assembleLine (printLine forms i ++ [';', ' '] ++ comment) = .ok v ∧ decode v = i)

/-! ### The invariant -/

/-- R24, R12 to R14, R94: every step keeps the registers' legal values. -/
def Obligations.StepKeepsRegistersLegal : Prop :=
  ∀ s t : State, s.Inv → step s = .next t → t.Inv

/-- The invariant holds at reset and in every machine as it powers up. -/
def Obligations.ResetAndPowerUpAreLegal : Prop :=
  State.reset.Inv ∧
  ∀ (setup : Setup) (regs : Regs) (inputs : List CommandVector), (setup.powerUp regs inputs).Inv

/-! ### The phase detector -/

/-- R60, R61: the waveform in exact arithmetic; the third axis wraps exactly when the halved samples sum to
at most 63, and is never 64. -/
def Obligations.WaveformIsHalvedAndOffset : Prop :=
  ∀ u v : Byte,
    (waveBase u v).u.toNat = u.toNat / 2 ∧ (waveBase u v).v.toNat = v.toNat / 2 ∧
    (waveBase u v).w.toNat = 255 - u.toNat / 2 - v.toNat / 2 ∧
    (waveform u v).u.toNat = u.toNat / 2 + 64 ∧ (waveform u v).v.toNat = v.toNat / 2 + 64 ∧
    (waveform u v).w.toNat =
      (if u.toNat / 2 + v.toNat / 2 ≤ 63 then 63 - u.toNat / 2 - v.toNat / 2
       else 319 - u.toNat / 2 - v.toNat / 2) ∧
    (waveform u v).w ≠ 64

/-- R62, R63: each estimate is its own axis less the component of its companion axis, modulo 256, and the
component is `X/4 - X/16`, never below zero. -/
def Obligations.EstimatesSubtractTheCompanion : Prop :=
  ∀ u v : Byte,
    let wave := waveform u v
    let z : Byte → Nat := fun x => x.toNat / 4 - x.toNat / 16
    (∀ x : Byte, (highFreq x).toNat = z x ∧ z x ≤ 48) ∧
    (estimates u v).uDel.toNat = wave.u.toNat - z wave.v ∧
    (estimates u v).wAdv.toNat = (wave.w.toNat + 256 - z wave.v) % 256 ∧
    (estimates u v).vDel.toNat = wave.v.toNat - z wave.w ∧
    (estimates u v).uAdv.toNat = wave.u.toNat - z wave.w ∧
    (estimates u v).wDel.toNat = (wave.w.toNat + 256 - z wave.u) % 256 ∧
    (estimates u v).vAdv.toNat = wave.v.toNat - z wave.u

/-- R64, its ranges: four estimates stay within them; `w_adv` and `w_del` wrap only where the third axis
itself has wrapped. -/
def Obligations.EstimateRanges : Prop :=
  ∀ u v : Byte,
    let e := estimates u v
    (28 ≤ e.uDel.toNat ∧ e.uDel.toNat ≤ 179) ∧ (16 ≤ e.vDel.toNat ∧ e.vDel.toNat ≤ 179) ∧
    (16 ≤ e.uAdv.toNat ∧ e.uAdv.toNat ≤ 179) ∧ (28 ≤ e.vAdv.toNat ∧ e.vAdv.toNat ≤ 179) ∧
    ((waveform u v).w.toNat < (components u v).v.toNat → u.toNat / 2 + v.toNat / 2 ≤ 63) ∧
    ((waveform u v).w.toNat < (components u v).u.toNat → u.toNat / 2 + v.toNat / 2 ≤ 63)

/-- R60: two samples that differ only in bit 0 give the same detection. -/
def Obligations.SampleBitZeroIsDiscarded : Prop :=
  ∀ (cfg : Config) (current : Phase) (u v u' v' : Byte),
    u.toNat / 2 = u'.toNat / 2 → v.toNat / 2 = v'.toNat / 2 →
    detect cfg current u v = detect cfg current u' v'

/-- R66, R67: a rule fires exactly when each of its atoms, as an unsigned comparison of the block's
`_del` estimate with 103 or of its two `_adv` estimates, is true. -/
def Obligations.RuleFiresWhenAllAtomsHold : Prop :=
  ∀ (e : Estimates) (b : Block) (r : CascadeRule),
    let del : Nat := match b.del with | .uDel => e.uDel.toNat | .vDel => e.vDel.toNat | .wDel => e.wDel.toNat
    let adv : AdvSel → Nat := fun
      | .uAdv => e.uAdv.toNat | .vAdv => e.vAdv.toNat | .wAdv => e.wAdv.toNat
    let compare : Rel → Nat → Nat → Prop := fun
      | .lt, x, y => x < y | .le, x, y => x ≤ y | .gt, x, y => x > y
      | .ge, x, y => x ≥ y | .eq, x, y => x = y | .ne, x, y => x ≠ y
    ruleFires e b r = true ↔ ∀ atom ∈ r.conds,
      match atom with
      | .delVsNeutral rel => compare rel del 103
      | .advVsAdv rel => compare rel (adv b.advA) (adv b.advB)

/-- R68 to R70: the detector reports the phase of the last rule that fires, in block order and list order,
and a miss exactly when none fires, then with the phase its policy names. -/
def Obligations.LastFiringRuleWins : Prop :=
  ∀ (cfg : Config) (current : Phase) (u v : Byte),
    let fired : List Nat := cfg.cascade.blocks.flatMap fun b =>
      (b.rules.filter fun r => ruleFires (estimates u v) b r).map CascadeRule.phase
    let det := detect cfg current u v
    (∀ p, fired.getLast? = some p → det.phase.toNat = p ∧ det.miss = false) ∧
    (fired = [] → det.miss = true ∧
      det.phase = match cfg.missPolicy with | .defaultPhase => cfg.missPhase | .hold => current)

/-- R71: the detected phase is in 0..23, given a held phase in 0..23. -/
def Obligations.DetectedPhaseInRange : Prop :=
  ∀ (cfg : Config) (current : Phase) (u v : Byte), current.toNat < 24 →
    (detect cfg current u v).phase.toNat < 24

/-- R72: `det_miss` never depends on the held phase; `det_phase` depends on it at most on a miss under
HOLD. -/
def Obligations.DetectorIsPure : Prop :=
  ∀ (cfg : Config) (current current' : Phase) (u v : Byte),
    (detect cfg current u v).miss = (detect cfg current' u v).miss ∧
    (cfg.missPolicy = .defaultPhase → detect cfg current u v = detect cfg current' u v) ∧
    ((detect cfg current u v).miss = false → detect cfg current u v = detect cfg current' u v)

/-! ### The tracker -/

/-- R80 to R82: between phases in 0..23 the forward distance is the difference modulo 24, it contributes
itself below 12 and 0 from 12 on, and so at most 11. -/
def Obligations.ForwardDistanceIsModulo24 : Prop :=
  ∀ det current : Phase, det.toNat < 24 → current.toNat < 24 →
    rawDiff det current = (((det.toNat : Int) - current.toNat) % 24) ∧
    contribution det current =
      (if (det.toNat + 24 - current.toNat) % 24 ≥ 12 then 0 else (det.toNat + 24 - current.toNat) % 24) ∧
    contribution det current ≤ 11

/-- R134: whatever NOPs and TICKs come between a RESET and the first control cycle after it, that cycle's
contribution is the detected phase when it is at most 11, else 0. A CYCLE leaves it in the accumulator; a
CYCLE_TICK leaves it there under TICK_FIRST, with a snapshot of 0, and in the snapshot under UPDATE_FIRST,
with the accumulator cleared (R113). -/
def Obligations.FirstCycleAfterReset : Prop :=
  ∀ (s : State) (between : List Instr) (u v a n : Byte), (∀ i ∈ between, i = .nop ∨ i = .tick) →
    let det := detect s.cfg 0 u v
    let added := if det.phase.toNat ≤ 11 then det.phase.toNat else 0
    (∃ t, runCommands (.reset :: (between ++ [.cycle u v a n])) s = .next t ∧
      t.regs.currentPhase = det.phase ∧ t.regs.phaseAcc = added) ∧
    (∃ t, runCommands (.reset :: (between ++ [.cycleTick u v a n])) s = .next t ∧
      t.regs.currentPhase = det.phase ∧
      (s.cfg.tickOrder = .tickFirst → t.regs.phaseAcc = added ∧ t.regs.velocitySnapshot = 0) ∧
      (s.cfg.tickOrder = .updateFirst → t.regs.phaseAcc = 0 ∧ t.regs.velocitySnapshot = added))

/-- R86 with R83: after `n` CYCLEs since the accumulator was cleared, with no room for a wrap, it is the
exact sum of their contributions and at most `11 * n`, and a TICK then samples that sum. That this holds from
a held phase of 24..31 too rests on log entry 13. -/
def Obligations.AccumulatorIsExactBelowTheWrap : Prop :=
  ∀ (s : State) (cycles : List Instr), s.resetSeen = true → s.regs.phaseAcc = 0 →
    (∀ i ∈ cycles, ∃ u v a n, i = .cycle u v a n) → 11 * cycles.length < 2 ^ s.cfg.accWidth →
    ∃ tally t, Tally.run cycles ⟨s, 0, 0⟩ = some tally ∧
      tally.state.regs.phaseAcc = tally.contributions ∧
      tally.state.regs.phaseAcc ≤ 11 * cycles.length ∧
      exec .tick tally.state = .next t ∧ t.regs.velocitySnapshot = tally.contributions

/-! ### The synthesizer -/

/-- R93, R94: each output is 128 plus or minus the cell its descriptor names, 128 where the descriptor
forces zero, as an exact integer in 1..255. -/
def Obligations.DutyIsCenterPlusOrMinusMagnitude : Prop :=
  ∀ (rom : StepRom) (a : Fin 62) (d : Descriptor),
    let m : Nat := if d.zero then 0 else (stepRomRead rom a d.col).toNat
    m ≤ 127 ∧
    ((dutyOf rom a d).toNat : Int) = (if d.neg then (128 : Int) - m else 128 + m) ∧
    1 ≤ (dutyOf rom a d).toNat ∧ (dutyOf rom a d).toNat ≤ 255

/-- R92, R45, R46: the clamped step's word gives output u its bits `[3:0]`, v `[7:4]` and w `[11:8]` as a
descriptor, whose column is its bits `[1:0]`, zero flag bit 2 and negate flag bit 3. -/
def Obligations.EachOutputHasItsDescriptor : Prop :=
  (∀ (stepRom : StepRom) (indexRom : IndexRom) (a n : Byte),
    let word := indexRomRead indexRom (clampStep n)
    let duty : DescriptorBits → Byte := fun d => dutyOf stepRom (clampAmplitude a) (unpackDescriptor d)
    synth stepRom indexRom a n =
      ⟨duty (word.extractLsb' 0 4), duty (word.extractLsb' 4 4), duty (word.extractLsb' 8 4)⟩) ∧
  (∀ d : DescriptorBits, (unpackDescriptor d).col.toNat = d.toNat % 4 ∧
    (unpackDescriptor d).zero = d.getLsbD 2 ∧ (unpackDescriptor d).neg = d.getLsbD 3)

/-- R95, R96: amplitude 0 gives (128, 128, 128) for every step. -/
def Obligations.ZeroAmplitudeIsNeutral : Prop :=
  ∀ (stepRom : StepRom) (indexRom : IndexRom) (n : Byte), synth stepRom indexRom 0 n = ⟨128, 128, 128⟩

/-- R91: amplitudes from 61 on act as 61 and steps from 23 on as 23; values in range pass unchanged. -/
def Obligations.CommandedValuesAreClamped : Prop :=
  (∀ a : Byte, (clampAmplitude a).val = min a.toNat 61) ∧ (∀ n : Byte, (clampStep n).val = min n.toNat 23) ∧
  ∀ (stepRom : StepRom) (indexRom : IndexRom) (a n : Byte),
    (61 ≤ a.toNat → synth stepRom indexRom a n = synth stepRom indexRom 61 n) ∧
    (23 ≤ n.toNat → synth stepRom indexRom a n = synth stepRom indexRom a 23)

/-- R98, R143: the duty triple a control cycle writes is the same whatever the samples and the registers
are; it depends on amplitude, step and the two ROMs alone. -/
def Obligations.DutyIgnoresTheDetector : Prop :=
  ∀ (s s' : State) (u v u' v' a n : Byte), s.resetSeen = true → s'.resetSeen = true →
    s.stepRom = s'.stepRom → s.indexRom = s'.indexRom →
    ∃ t t', exec (.cycle u v a n) s = .next t ∧ exec (.cycleTick u' v' a n) s' = .next t' ∧
      t.regs.dutyU = t'.regs.dutyU ∧ t.regs.dutyV = t'.regs.dutyV ∧ t.regs.dutyW = t'.regs.dutyW

/-! ### Configuration -/

/-- R49, R96 and the other configuration checks: `configure` succeeds on exactly the parameter lists that
pass every check, here written out. -/
def Obligations.ConfigureAcceptsTheWellFormed : Prop :=
  ∀ p : Params, (∃ setup, configure p = .ok setup) ↔
    p.cascade.map Block.name = [.uBlock, .vBlock, .wBlock, .uwCross, .vuCross, .wvCross] ∧
    (∀ b ∈ p.cascade, b.advA ≠ b.advB ∧ ∀ r ∈ b.rules, r.phase < 24) ∧
    p.stepTable.length = 62 ∧ (∀ row ∈ p.stepTable, row.length = 4 ∧ ∀ cell ∈ row, 0 ≤ cell ∧ cell ≤ 127) ∧
    (∀ row, p.stepTable.head? = some row → ∀ cell ∈ row, cell = 0) ∧
    (∃ row ∈ p.stepTable, (127 : Int) ∈ row) ∧
    p.indexTable.length = 24 ∧ p.missPhase < 24 ∧ 4 ≤ p.accWidth

/-- R30, R33, R45 to R47: after configuration `StepROM(a, c)` is the cell in row `a` and column `c` of
STEP_TABLE and `IndexROM(s)` unpacks to entry `s` of INDEX_TABLE. -/
def Obligations.ConfiguredRomsHoldTheTables : Prop :=
  ∀ (p : Params) (setup : Setup), configure p = .ok setup →
    (∀ (a : Fin 62) (c : BitVec 2), ∃ row, p.stepTable[a.val]? = some row ∧
      row[c.toNat]? = some ((stepRomRead setup.stepRom a c).toNat : Int)) ∧
    (∀ n : Fin 24, p.indexTable[n.val]? = some (unpackEntry (indexRomRead setup.indexRom n)))

/-- R99: the configuration check flags exactly the operand pairs whose duty sum is farther from neutral
than `SUM_TOL`. -/
def Obligations.SumToNeutralIsFlagged : Prop :=
  ∀ (setup : Setup) (a n : Nat), (a, n) ∈ sumToNeutralFlags setup ↔
    a ≤ 61 ∧ n ≤ 23 ∧
      let duty := synth setup.stepRom setup.indexRom (BitVec.ofNat 8 a) (BitVec.ofNat 8 n)
      (setup.cfg.sumTol : Int) <
        |((duty.u.toNat : Int) - 128) + (duty.v.toNat - 128) + (duty.w.toNat - 128)|

/-- R20, R18, R19: no command changes the configuration or a ROM, and none takes a pending input. -/
def Obligations.NoCommandChangesConfiguration : Prop :=
  ∀ (i : Instr) (s t : State), exec i s = .next t →
    t.cfg = s.cfg ∧ t.stepRom = s.stepRom ∧ t.indexRom = s.indexRom ∧ t.inputs = s.inputs

/-! ### Registers over whole runs -/

/-- R12, R14 to R17: each register is changed only by the commands the spec lets write it. -/
def Obligations.OnlyTheirWritersChangeRegisters : Prop :=
  ∀ (i : Instr) (s t : State), exec i s = .next t → i ≠ .reset →
    (i.samples? = none → t.regs.currentPhase = s.regs.currentPhase ∧ t.regs.dutyU = s.regs.dutyU ∧
      t.regs.dutyV = s.regs.dutyV ∧ t.regs.dutyW = s.regs.dutyW ∧
      t.regs.missSticky = s.regs.missSticky) ∧
    (i.takesSample = false → t.regs.velocitySnapshot = s.regs.velocitySnapshot) ∧
    (i.samples? = none → i.takesSample = false → t.regs.phaseAcc = s.regs.phaseAcc) ∧
    (s.regs.missSticky = true → t.regs.missSticky = true)

/-- R103: whatever commands follow a RESET, they complete, and the snapshots taken since the last RESET
plus the accumulator equal the contributions made since it, modulo `2^ACC_WIDTH`, under either order. -/
def Obligations.ContributionsAreConserved : Prop :=
  ∀ (s : State) (commands : List Instr), ∃ tally,
    Tally.run (.reset :: commands) ⟨s, 0, 0⟩ = some tally ∧
    (tally.snapshots + tally.state.regs.phaseAcc) % 2 ^ s.cfg.accWidth =
      tally.contributions % 2 ^ s.cfg.accWidth

/-- R103 as an invariant of one command: in every state, whatever the configuration, a command that completes
keeps the sum equation; RESET establishes it from any tally. -/
def Obligations.EveryCommandKeepsTheTallyBalanced : Prop :=
  (∀ (i : Instr) (tally after : Tally), tally.Balanced → tally.command i = some after → after.Balanced) ∧
  (∀ tally : Tally, ∃ after, tally.command .reset = some after ∧ after.Balanced)

/-- R16, R144: after a RESET, `miss_sticky` is set exactly when the cascade fired no rule in one of the
control cycles since. -/
def Obligations.MissStickyRecordsEveryMiss : Prop :=
  ∀ (s : State) (commands : List Instr), .reset ∉ commands →
    ∃ t, runCommands (.reset :: commands) s = .next t ∧
      (t.regs.missSticky = true ↔
        ∃ i ∈ commands, ∃ u v, i.samples? = some (u, v) ∧ decision s.cfg u v = none)

/-- R24: after a RESET the held phase is in 0..23, it is the one detected by the most recent control cycle,
and it is 0 if there was none. -/
def Obligations.HeldPhaseIsTheLastDetection : Prop :=
  ∀ (s : State) (before after : List Instr), (∀ i ∈ after, i.samples? = none ∧ i ≠ .reset) →
    (∃ t, runCommands (.reset :: after) s = .next t ∧ t.regs.currentPhase = 0) ∧
    (∀ (i : Instr) (u v : Byte), i.samples? = some (u, v) → ∃ m t,
      runCommands (.reset :: before) s = .next m ∧
      runCommands (.reset :: (before ++ i :: after)) s = .next t ∧
      t.regs.currentPhase = (detect s.cfg m.regs.currentPhase u v).phase ∧
      t.regs.currentPhase.toNat < 24)

/-- R113: where the cycle contributes 0 the two orders of CYCLE_TICK leave the same registers. -/
def Obligations.TickOrdersAgreeWithoutContribution : Prop :=
  ∀ (s s' : State) (u v a n : Byte), s.resetSeen = true → s.Inv →
    s' = { s with cfg := { s.cfg with tickOrder := .updateFirst } } → s.cfg.tickOrder = .tickFirst →
    contributedBy (.cycleTick u v a n) s = 0 →
    ∃ t t', exec (.cycleTick u v a n) s = .next t ∧ exec (.cycleTick u v a n) s' = .next t' ∧
      t.regs = t'.regs

/-- R41, R21: after a RESET each register port shows its register, and the detector ports show the
detector's result for the samples then present. -/
def Obligations.PortsShowRegistersAndDetection : Prop :=
  ∀ (s : State), s.resetSeen = true →
    s.currentPhasePort = .ok s.regs.currentPhase ∧
    s.velocitySnapshotPort = .ok s.regs.velocitySnapshot ∧
    s.dutyPorts = .ok ⟨s.regs.dutyU, s.regs.dutyV, s.regs.dutyW⟩ ∧
    s.missStickyPort = .ok s.regs.missSticky ∧
    ∀ u v : Byte, s.detPhasePort u v = .ok (detect s.cfg s.regs.currentPhase u v).phase ∧
      s.detMissPort u v = (detect s.cfg s.regs.currentPhase u v).miss

/-- R13, R41, D21: no output port shows the accumulator; machines that differ in nothing else drive the same
values on every port. -/
def Obligations.AccumulatorIsOnNoPort : Prop :=
  ∀ (s : State) (acc : Nat),
    let s' : State := { s with regs := { s.regs with phaseAcc := acc } }
    s'.currentPhasePort = s.currentPhasePort ∧ s'.velocitySnapshotPort = s.velocitySnapshotPort ∧
    s'.dutyPorts = s.dutyPorts ∧ s'.missStickyPort = s.missStickyPort ∧
    ∀ u v : Byte, s'.detPhasePort u v = s.detPhasePort u v ∧ s'.detMissPort u v = s.detMissPort u v
end

