-- ==== Sys2Proof/Laws/Boot.lean ====
section
/-! SUPPORT. Configuration: when it succeeds and what it then gives. -/

namespace Sys2Proof.Machine

/-- Everything a successful configuration says. -/
theorem configure_ok {p : Params} {setup : Setup} (h : configure p = .ok setup) :
    ∃ passes : p.failures = [], setup = setupOf p passes := by
  unfold configure at h
  split at h
  · exact ⟨‹_›, by simpa [eq_comm] using h⟩
  · cases h

/-- A refusal names the checks that failed. -/
theorem configure_error {p : Params} {why : List ConfigError} (h : configure p = .error why) :
    why = p.failures ∧ why ≠ [] := by
  unfold configure at h
  split at h
  · cases h
  · cases h
    exact ⟨rfl, ‹_›⟩

/-- Powering up takes the setup's configuration and leaves every register unreadable. -/
@[simp] theorem powerUp_cfg (setup : Setup) (r : Regs) (vs : List CommandVector) :
    (setup.powerUp r vs).cfg = setup.cfg := rfl
@[simp] theorem powerUp_resetSeen (setup : Setup) (r : Regs) (vs : List CommandVector) :
    (setup.powerUp r vs).resetSeen = false := rfl
@[simp] theorem powerUp_inputs (setup : Setup) (r : Regs) (vs : List CommandVector) :
    (setup.powerUp r vs).inputs = vs := rfl

end Sys2Proof.Machine
end

