-- ==== Sys2Proof/Laws/State.lean ====
section
/-! SUPPORT. One lemma a field for each update of the state, and the reset values. -/

namespace Sys2Proof.Machine

@[simp] theorem withRegs_cfg (s : State) (r : Regs) : (s.withRegs r).cfg = s.cfg := rfl
@[simp] theorem withRegs_stepRom (s : State) (r : Regs) : (s.withRegs r).stepRom = s.stepRom := rfl
@[simp] theorem withRegs_indexRom (s : State) (r : Regs) : (s.withRegs r).indexRom = s.indexRom := rfl
@[simp] theorem withRegs_regs (s : State) (r : Regs) : (s.withRegs r).regs = r := rfl
@[simp] theorem withRegs_resetSeen (s : State) (r : Regs) : (s.withRegs r).resetSeen = s.resetSeen := rfl
@[simp] theorem withRegs_inputs (s : State) (r : Regs) : (s.withRegs r).inputs = s.inputs := rfl

@[simp] theorem withFetchWord_cfg (s : State) (n w : Nat) : (s.withFetchWord n w).cfg = s.cfg := rfl
@[simp] theorem withFetchWord_stepRom (s : State) (n w : Nat) :
    (s.withFetchWord n w).stepRom = s.stepRom := rfl
@[simp] theorem withFetchWord_indexRom (s : State) (n w : Nat) :
    (s.withFetchWord n w).indexRom = s.indexRom := rfl
@[simp] theorem withFetchWord_regs (s : State) (n w : Nat) : (s.withFetchWord n w).regs = s.regs := rfl
@[simp] theorem withFetchWord_resetSeen (s : State) (n w : Nat) :
    (s.withFetchWord n w).resetSeen = s.resetSeen := rfl
@[simp] theorem withFetchWord_inputs (s : State) (n w : Nat) :
    (s.withFetchWord n w).inputs = vectorOfTableWord n w :: s.inputs.tail := rfl

@[simp] theorem withProgram_inputs (s : State) (vs : List CommandVector) :
    (s.withProgram vs).inputs = vs := rfl
@[simp] theorem withProgram_regs (s : State) (vs : List CommandVector) :
    (s.withProgram vs).regs = s.regs := rfl
@[simp] theorem withProgram_resetSeen (s : State) (vs : List CommandVector) :
    (s.withProgram vs).resetSeen = s.resetSeen := rfl

/-- RESET loads the registers of the reset state. -/
@[simp] theorem resetValues_eq_atReset : resetValues = Regs.atReset := rfl

/-- A control cycle leaves the accumulator and the snapshot to the command that runs it. -/
@[simp] theorem controlRegs_phaseAcc (s : State) (u v a n : Byte) :
    (controlRegs s u v a n).phaseAcc = s.regs.phaseAcc := rfl
@[simp] theorem controlRegs_velocitySnapshot (s : State) (u v a n : Byte) :
    (controlRegs s u v a n).velocitySnapshot = s.regs.velocitySnapshot := rfl
@[simp] theorem controlRegs_currentPhase (s : State) (u v a n : Byte) :
    (controlRegs s u v a n).currentPhase = (detect s.cfg s.regs.currentPhase u v).phase := rfl
@[simp] theorem controlRegs_dutyU (s : State) (u v a n : Byte) :
    (controlRegs s u v a n).dutyU = (synth s.stepRom s.indexRom a n).u := rfl
@[simp] theorem controlRegs_dutyV (s : State) (u v a n : Byte) :
    (controlRegs s u v a n).dutyV = (synth s.stepRom s.indexRom a n).v := rfl
@[simp] theorem controlRegs_dutyW (s : State) (u v a n : Byte) :
    (controlRegs s u v a n).dutyW = (synth s.stepRom s.indexRom a n).w := rfl
@[simp] theorem controlRegs_missSticky (s : State) (u v a n : Byte) :
    (controlRegs s u v a n).missSticky =
      (s.regs.missSticky || (detect s.cfg s.regs.currentPhase u v).miss) := rfl

end Sys2Proof.Machine
end

