-- ==== Sys2Proof/Laws/Ops.lean ====
section
/-! SUPPORT. What the shared operations can do. -/

namespace Sys2Proof.Machine

/-- After a RESET an edge writes the registers. -/
@[simp] theorem edge_of_resetSeen {s : State} (h : s.resetSeen = true) (r : Regs) :
    s.edge r = .next (s.withRegs r) := by simp [State.edge, h]

/-- Before it, an edge that reads a register faults. -/
@[simp] theorem edge_of_not_resetSeen {s : State} (h : s.resetSeen = false) (r : Regs) :
    s.edge r = .fault .unresetRead := by simp [State.edge, h]

/-- Everything an edge can do when it answers a next state. -/
theorem edge_next {s t : State} {r : Regs} (h : s.edge r = .next t) :
    s.resetSeen = true ∧ t = s.withRegs r := by
  cases hs : s.resetSeen with
  | true => exact ⟨rfl, by simpa [hs, eq_comm] using h⟩
  | false => simp [hs] at h

/-- A sum modulo `2^ACC_WIDTH` fits the accumulator. -/
theorem accAdd_lt (w a b : Nat) : accAdd w a b < 2 ^ w := Nat.mod_lt _ (Nat.two_pow_pos w)

/-- Below the wrap the sum is exact. -/
theorem accAdd_of_lt {w a b : Nat} (h : a + b < 2 ^ w) : accAdd w a b = a + b := Nat.mod_eq_of_lt h

/-- Row 0 of the step ROM reads 0 in every column (R96 `st_row0`). -/
theorem stepRomRead_row0 (rom : StepRom) (c : BitVec 2) : stepRomRead rom 0 c = 0 := by
  have h := rom.row0
  have hc := c.isLt
  have hs := rom.size
  simp only [List.all_eq_true, decide_eq_true_eq] at h
  apply h
  simp only [stepRomRead, Fin.val_zero, Nat.mul_zero, Nat.zero_add]
  rw [List.mem_take_iff_getElem]
  exact ⟨c.toNat, by simp [hs, ampMax]; omega, rfl⟩

end Sys2Proof.Machine
end

