-- ==== Sys2Proof/Laws/Detector.lean ====
section
/-! SUPPORT. The detector: what its cascade scan returns, and the bounds of its outputs. -/

namespace Sys2Proof.Machine

/-- One block's scan only returns the phase it started with or one of its rules'. -/
theorem scanRules_mem {e : Estimates} {b : Block} {rules : List CascadeRule} {held : Option Nat} {p : Nat}
    (h : scanRules e b rules held = some p) : held = some p ∨ ∃ r ∈ rules, r.phase = p := by
  induction rules generalizing held with
  | nil => exact .inl h
  | cons r rs ih =>
    simp only [scanRules, List.foldl_cons] at h
    rcases ih h with h' | ⟨r', hr', hp⟩
    · split at h'
      · exact .inr ⟨r, by simp, by simpa using h'⟩
      · exact .inl h'
    · exact .inr ⟨r', by simp [hr'], hp⟩

/-- The scan of the cascade only returns the phase of one of its rules. -/
theorem scanBlocks_mem {e : Estimates} {blocks : List Block} {held : Option Nat} {p : Nat}
    (h : scanBlocks e blocks held = some p) :
    held = some p ∨ ∃ b ∈ blocks, ∃ r ∈ b.rules, r.phase = p := by
  induction blocks generalizing held with
  | nil => exact .inl h
  | cons b bs ih =>
    simp only [scanBlocks, List.foldl_cons] at h
    rcases ih h with h' | ⟨b', hb', hr⟩
    · rcases scanRules_mem h' with h'' | hr
      · exact .inl h''
      · exact .inr ⟨b, by simp, hr⟩
    · exact .inr ⟨b', by simp [hb'], hr⟩

/-- Every phase the cascade decides is in 0..23, by `wf_phase_range`. -/
theorem decision_lt {cfg : Config} {u v : Byte} {p : Nat} (h : decision cfg u v = some p) :
    p < nPhases := by
  rcases scanBlocks_mem h with h' | ⟨b, hb, r, hr, rfl⟩
  · cases h'
  · have := cfg.cascade.phaseRange
    simp only [phasesInRange, List.all_eq_true, decide_eq_true_eq] at this
    exact this b hb r hr

/-- The detection where the cascade decides. -/
theorem detect_of_decision {cfg : Config} {u v : Byte} {p : Nat} (h : decision cfg u v = some p)
    (cur : Phase) : detect cfg cur u v = ⟨BitVec.ofNat 5 p, false⟩ := by simp [detect, h]

/-- The detection on a miss. -/
theorem detect_of_miss {cfg : Config} {u v : Byte} (h : decision cfg u v = none) (cur : Phase) :
    detect cfg cur u v = ⟨missResult cfg cur, true⟩ := by simp [detect, h]

/-- `det_miss` says that the cascade decided nothing. -/
theorem detect_miss_iff (cfg : Config) (cur : Phase) (u v : Byte) :
    (detect cfg cur u v).miss = true ↔ decision cfg u v = none := by
  cases h : decision cfg u v <;> simp [detect, h]

/-- The decision and its result depend on the configuration but not on the tick order. -/
@[simp] theorem detect_with_tickOrder (cfg : Config) (order : TickOrder) (cur : Phase) (u v : Byte) :
    detect { cfg with tickOrder := order } cur u v = detect cfg cur u v := rfl

end Sys2Proof.Machine
end

