-- ==== Sys2Proof/Laws/Synthesizer.lean ====
section
/-! SUPPORT. The synthesizer's outputs in exact arithmetic. -/

namespace Sys2Proof.Machine

/-- A magnitude is at most 127. -/
theorem magnitude_toNat (rom : StepRom) (a : Fin (ampMax + 1)) (d : Descriptor) :
    (magnitude rom a d).toNat = (if d.zero then 0 else (stepRomRead rom a d.col).toNat) ∧
      (magnitude rom a d).toNat ≤ 127 := by
  have h := (stepRomRead rom a d.col).isLt
  unfold magnitude
  split
  · simp
  · simp only [BitVec.toNat_setWidth]
    omega

/-- An output is exactly 128 less or 128 plus its magnitude. -/
theorem dutyOf_toNat (rom : StepRom) (a : Fin (ampMax + 1)) (d : Descriptor) :
    (dutyOf rom a d).toNat =
      if d.neg then 128 - (magnitude rom a d).toNat else 128 + (magnitude rom a d).toNat := by
  have h := (magnitude_toNat rom a d).2
  unfold dutyOf
  split
  · simp only [BitVec.toNat_sub, dutyCenter, BitVec.reduceToNat]
    omega
  · simp only [BitVec.toNat_add, dutyCenter, BitVec.reduceToNat]
    omega

/-- No output is 0. -/
theorem dutyOf_pos (rom : StepRom) (a : Fin (ampMax + 1)) (d : Descriptor) :
    1 ≤ (dutyOf rom a d).toNat := by
  have h := (magnitude_toNat rom a d).2
  rw [dutyOf_toNat]
  split <;> omega

end Sys2Proof.Machine
end

