-- ==== Sys2Proof/Laws/Tracker.lean ====
section
/-! SUPPORT. The tracker's contribution. -/

namespace Sys2Proof.Machine

/-- A contribution is at most 11, whatever the two phases (R86). -/
theorem contribution_le (det cur : Phase) : contribution det cur ≤ 11 := by
  have : contribution det cur =
      if rawDiff det cur ≥ 12 then 0 else (rawDiff det cur).toNat := rfl
  rw [this]
  split <;> omega

/-- A contribution fits the accumulator, which is at least 4 bits wide (R13). -/
theorem contribution_lt (cfg : Config) (det cur : Phase) : contribution det cur < 2 ^ cfg.accWidth := by
  have h1 := contribution_le det cur
  have h2 : 2 ^ 4 ≤ 2 ^ cfg.accWidth := Nat.pow_le_pow_right (by decide) cfg.accWidthOk
  omega

end Sys2Proof.Machine
end

