-- ==== Sys2Proof/Laws/Commands.lean ====
section
/-! SUPPORT. Said once, everything a command and a step can do when they answer a next state. -/

namespace Sys2Proof.Machine

/-- The registers a command other than RESET leaves. -/
def regsAfter : Instr → State → Regs
  | .nop, s => s.regs
  | .cycle u v a n, s =>
    { controlRegs s u v a n with
      phaseAcc := accAdd s.cfg.accWidth s.regs.phaseAcc (cycleContribution s u v) }
  | .tick, s => { s.regs with velocitySnapshot := s.regs.phaseAcc, phaseAcc := 0 }
  | .cycleTick u v a n, s =>
    { controlRegs s u v a n with
      velocitySnapshot := tickSnapshot s.cfg s.regs.phaseAcc (cycleContribution s u v)
      phaseAcc := tickRemainder s.cfg (cycleContribution s u v) }
  | .reset, _ => resetValues

/-- After a RESET every command completes, and the registers are all it changes. -/
theorem exec_of_resetSeen {s : State} (h : s.resetSeen = true) (i : Instr) :
    exec i s = .next (s.withRegs (regsAfter i s)) := by
  cases i with
  | nop => rfl
  | cycle u v a n => exact edge_of_resetSeen h _
  | tick => exact edge_of_resetSeen h _
  | cycleTick u v a n => exact edge_of_resetSeen h _
  | reset =>
    simp only [exec, execReset, regsAfter]
    congr 1
    simp [State.withRegs, h]

/-- Everything a command can do when it answers a next state: write the registers after a RESET, be NOP,
or be the RESET itself. -/
theorem exec_next {i : Instr} {s t : State} (h : exec i s = .next t) :
    (s.resetSeen = true ∧ t = s.withRegs (regsAfter i s)) ∨ (i = .nop ∧ t = s) ∨
      (i = .reset ∧ t = { s.withRegs resetValues with resetSeen := true }) := by
  cases i with
  | nop => exact .inr (.inl ⟨rfl, by simpa [exec, execNop, eq_comm] using h⟩)
  | cycle u v a n => exact .inl (edge_next h)
  | tick => exact .inl (edge_next h)
  | cycleTick u v a n => exact .inl (edge_next h)
  | reset => exact .inr (.inr ⟨rfl, by simpa [exec, execReset, eq_comm] using h⟩)

/-- Everything a step can do when it answers a next state. -/
theorem step_next {s t : State} (h : step s = .next t) :
    ∃ v later, s.inputs = v :: later ∧ exec (decode v) { s with inputs := later } = .next t := by
  unfold step at h
  split at h
  · cases h
  · exact ⟨_, _, ‹_›, h⟩

end Sys2Proof.Machine
end

