-- ==== Sys2Proof/Laws/Decode.lean ====
section
/-! SUPPORT. The fields of a command vector and of a table word, and their packing. -/

namespace Sys2Proof

namespace CommandVector

@[simp] theorem cmd_ofFields (c : BitVec 3) (u v a s : Byte) :
    (ofFields c u v a s).cmd = c := by
  change BitVec.extractLsb' (n := 3 + 8 + 8 + 8 + 8) 32 3 (c ++ u ++ v ++ a ++ s) = c
  rw [BitVec.extractLsb'_append_eq_of_le (by decide),
    BitVec.extractLsb'_append_eq_of_le (by decide),
    BitVec.extractLsb'_append_eq_of_le (by decide),
    BitVec.extractLsb'_append_eq_of_le (by decide)]
  simp

@[simp] theorem uSense_ofFields (c : BitVec 3) (u v a s : Byte) :
    (ofFields c u v a s).uSense = u := by
  change BitVec.extractLsb' (n := 3 + 8 + 8 + 8 + 8) 24 8 (c ++ u ++ v ++ a ++ s) = u
  rw [BitVec.extractLsb'_append_eq_of_le (by decide),
    BitVec.extractLsb'_append_eq_of_le (by decide),
    BitVec.extractLsb'_append_eq_of_le (by decide),
    BitVec.extractLsb'_append_eq_of_add_le (by decide)]
  simp

@[simp] theorem vSense_ofFields (c : BitVec 3) (u v a s : Byte) :
    (ofFields c u v a s).vSense = v := by
  change BitVec.extractLsb' (n := 3 + 8 + 8 + 8 + 8) 16 8 (c ++ u ++ v ++ a ++ s) = v
  rw [BitVec.extractLsb'_append_eq_of_le (by decide),
    BitVec.extractLsb'_append_eq_of_le (by decide),
    BitVec.extractLsb'_append_eq_of_add_le (by decide)]
  simp

@[simp] theorem amplitude_ofFields (c : BitVec 3) (u v a s : Byte) :
    (ofFields c u v a s).amplitude = a := by
  change BitVec.extractLsb' (n := 3 + 8 + 8 + 8 + 8) 8 8 (c ++ u ++ v ++ a ++ s) = a
  rw [BitVec.extractLsb'_append_eq_of_le (by decide),
    BitVec.extractLsb'_append_eq_of_add_le (by decide)]
  simp

@[simp] theorem step_ofFields (c : BitVec 3) (u v a s : Byte) :
    (ofFields c u v a s).step = s := by
  change BitVec.extractLsb' (n := 3 + 8 + 8 + 8 + 8) 0 8 (c ++ u ++ v ++ a ++ s) = s
  rw [BitVec.extractLsb'_append_eq_of_add_le (by decide)]
  simp

end CommandVector

namespace Machine

/-- Packing a descriptor loses nothing (R46). -/
@[simp] theorem unpack_packDescriptor (d : Descriptor) : unpackDescriptor (packDescriptor d) = d := by
  obtain ⟨col, zero, neg⟩ := d
  revert col zero neg
  decide

/-- Every 4-bit descriptor is a packed one (R46: all 16 values are legal). -/
@[simp] theorem pack_unpackDescriptor (d : DescriptorBits) : packDescriptor (unpackDescriptor d) = d := by
  revert d
  decide

/-- Packing an entry loses nothing (R45). -/
@[simp] theorem unpack_packEntry (e : IndexEntry) : unpackEntry (packEntry e) = e := by
  have hu : (packEntry e).extractLsb' 0 4 = packDescriptor e.u := by
    change BitVec.extractLsb' (n := 4 + 4 + 4) 0 4
      (packDescriptor e.w ++ packDescriptor e.v ++ packDescriptor e.u) = _
    rw [BitVec.extractLsb'_append_eq_of_add_le (by decide)]
    simp
  have hv : (packEntry e).extractLsb' 4 4 = packDescriptor e.v := by
    change BitVec.extractLsb' (n := 4 + 4 + 4) 4 4
      (packDescriptor e.w ++ packDescriptor e.v ++ packDescriptor e.u) = _
    rw [BitVec.extractLsb'_append_eq_of_le (by decide),
      BitVec.extractLsb'_append_eq_of_add_le (by decide)]
    simp
  have hw : (packEntry e).extractLsb' 8 4 = packDescriptor e.w := by
    change BitVec.extractLsb' (n := 4 + 4 + 4) 8 4
      (packDescriptor e.w ++ packDescriptor e.v ++ packDescriptor e.u) = _
    rw [BitVec.extractLsb'_append_eq_of_le (by decide),
      BitVec.extractLsb'_append_eq_of_le (by decide)]
    simp
  simp [unpackEntry, hu, hv, hw]

end Machine

end Sys2Proof
end

