-- ==== Sys2Proof/Laws/PerInstr.lean ====
section
/-! SUPPORT. Facts about every command as syntax, one lemma a constructor. -/

namespace Sys2Proof.Laws.CanonicalWord

/-- The vector written for a command holds its row's `cmd` value, and zero in the operand fields of a
command without operands (R42, R51). -/
def Statement (i : Instr) : Prop :=
  match i with
  | .nop => (encode i).cmd = 0b000 ∧ encode i = 0x000000000
  | .cycle u v a s => (encode i).cmd = 0b001 ∧ (encode i).uSense = u ∧ (encode i).vSense = v ∧
      (encode i).amplitude = a ∧ (encode i).step = s
  | .tick => (encode i).cmd = 0b010 ∧ encode i = 0x200000000
  | .cycleTick u v a s => (encode i).cmd = 0b011 ∧ (encode i).uSense = u ∧ (encode i).vSense = v ∧
      (encode i).amplitude = a ∧ (encode i).step = s
  | .reset => (encode i).cmd = 0b100 ∧ encode i = 0x400000000

theorem nop : Statement .nop := ⟨by decide, by decide⟩

theorem cycle (uSense vSense amplitude step : Byte) :
    Statement (.cycle uSense vSense amplitude step) := by simp [Statement, encode]

theorem tick : Statement .tick := ⟨by decide, by decide⟩

theorem cycleTick (uSense vSense amplitude step : Byte) :
    Statement (.cycleTick uSense vSense amplitude step) := by simp [Statement, encode]

theorem reset : Statement .reset := ⟨by decide, by decide⟩

end Sys2Proof.Laws.CanonicalWord
end

