-- ==== Sys2Proof/Laws/Ports.lean ====
section
/-! SUPPORT. What the output ports show. -/

namespace Sys2Proof.Machine

/-- After a RESET a register port shows its register. -/
@[simp] theorem registerPort_of_resetSeen {α : Type} {s : State} (h : s.resetSeen = true)
    (read : Regs → α) : s.registerPort read = .ok (read s.regs) := by simp [State.registerPort, h]

/-- Before it, a register port faults. -/
@[simp] theorem registerPort_of_not_resetSeen {α : Type} {s : State} (h : s.resetSeen = false)
    (read : Regs → α) : s.registerPort read = .error .unresetRead := by simp [State.registerPort, h]

/-- `det_miss` is the detector's second output, whatever phase is held. -/
theorem detMissPort_eq (s : State) (cur : Phase) (u v : Byte) :
    s.detMissPort u v = (detect s.cfg cur u v).miss := by
  cases h : decision s.cfg u v <;> simp [State.detMissPort, detect, h]

/-- Where a rule fires `det_phase` shows its phase, RESET or not. -/
theorem detPhasePort_of_decision {s : State} {u v : Byte} {p : Nat} (h : decision s.cfg u v = some p) :
    s.detPhasePort u v = .ok (BitVec.ofNat 5 p) := by simp [State.detPhasePort, h]

end Sys2Proof.Machine
end

