-- ==== Sys2Proof/Laws/Program.lean ====
section
/-! SUPPORT. The pieces of the program syntax: numbers, words and comments. -/

namespace Sys2Proof.Machine

/-- A printed byte reads back, in either form. -/
@[simp] theorem parseNumber_printNumber (form : NumberForm) :
    ∀ b : Byte, parseNumber (printNumber form b) = some b := by
  cases form <;> decide +kernel

/-- A printed byte holds neither a space nor a semicolon. -/
theorem printNumber_clean (form : NumberForm) :
    ∀ b : Byte, (printNumber form b).all (fun c => c != ' ' && c != ';') = true := by
  cases form <;> decide +kernel

/-- A literal prefix is taken off. -/
@[simp] theorem afterPrefix_append (name text : List Char) : afterPrefix name (name ++ text) = some text := by
  induction name with
  | nil => rfl
  | cons c name ih => simp [afterPrefix, ih]

/-- The first word ends at the first space. -/
theorem wordsOf_append_space (a b : List Char) (h : a.all (fun c => c != ' ') = true) :
    wordsOf (a ++ ' ' :: b) = a :: wordsOf b := by
  induction a with
  | nil => simp [wordsOf]
  | cons c a ih =>
    simp only [List.all_cons, Bool.and_eq_true, bne_iff_ne] at h
    simp [wordsOf, h.1, ih h.2]

/-- A text without spaces is one word. -/
theorem wordsOf_one (a : List Char) (h : a.all (fun c => c != ' ') = true) : wordsOf a = [a] := by
  induction a with
  | nil => rfl
  | cons c a ih =>
    simp only [List.all_cons, Bool.and_eq_true, bne_iff_ne] at h
    simp [wordsOf, h.1, ih h.2]

/-- A comment is stripped from a text without semicolons. -/
theorem stripComment_append (a comment : List Char) (h : a.all (fun c => c != ';') = true) :
    stripComment (a ++ ';' :: ' ' :: comment) = a := by
  induction a with
  | nil => rfl
  | cons x a ih =>
    simp only [List.all_cons, Bool.and_eq_true, bne_iff_ne] at h
    rw [List.cons_append, stripComment, ih h.2]
    exact fun _ hx _ => h.1 hx

/-- A text without semicolons has no comment. -/
theorem stripComment_self (a : List Char) (h : a.all (fun c => c != ';') = true) : stripComment a = a := by
  induction a with
  | nil => rfl
  | cons x a ih =>
    simp only [List.all_cons, Bool.and_eq_true, bne_iff_ne] at h
    rw [stripComment, ih h.2]
    exact fun _ hx _ => h.1 hx

end Sys2Proof.Machine
end

