-- ==== Sys2Proof/Tests/Fixtures.lean ====
section
/-! SUPPORT. The invented fixtures of the spec's test vectors (95_test_vectors.md section 2), for this
model's own tests. They are no contents of the reference, and the machine takes none of them. -/

namespace Sys2Proof.Tests

open Machine

/-- Fixture F-CASCADE. -/
def fixtureCascade : List Block :=
  [ ⟨.uBlock, .uDel, .vAdv, .wAdv,
      [⟨[.delVsNeutral .gt, .advVsAdv .gt], 1⟩, ⟨[.delVsNeutral .gt, .advVsAdv .lt], 2⟩]⟩,
    ⟨.vBlock, .vDel, .wAdv, .uAdv,
      [⟨[.delVsNeutral .gt, .advVsAdv .gt], 9⟩, ⟨[.delVsNeutral .gt, .advVsAdv .lt], 10⟩]⟩,
    ⟨.wBlock, .wDel, .uAdv, .vAdv,
      [⟨[.delVsNeutral .gt, .advVsAdv .gt], 17⟩, ⟨[.delVsNeutral .gt, .advVsAdv .lt], 18⟩]⟩,
    ⟨.uwCross, .uDel, .uAdv, .wAdv, [⟨[.delVsNeutral .le, .advVsAdv .gt], 5⟩]⟩,
    ⟨.vuCross, .vDel, .vAdv, .uAdv, [⟨[.delVsNeutral .le, .advVsAdv .gt], 13⟩]⟩,
    ⟨.wvCross, .wDel, .wAdv, .vAdv, [⟨[.delVsNeutral .le, .advVsAdv .gt], 21⟩]⟩ ]

/-- Fixture F-STEP: `floor(a * 127 * (c + 1) / 244)`. -/
def fixtureStep : List (List Int) :=
  (List.range 62).map fun a => (List.range 4).map fun c => ((a * 127 * (c + 1) / 244 : Nat) : Int)

/-- `desc(t)` of fixture F-INDEX. -/
def fixtureDescriptor (t : Nat) : Descriptor :=
  { col := BitVec.ofNat 2 t, zero := t % 12 == 0, neg := decide (12 ≤ t) }

/-- Fixture F-INDEX. -/
def fixtureIndex : List IndexEntry :=
  (List.range 24).map fun s =>
    { u := fixtureDescriptor s
      v := fixtureDescriptor ((s + 8) % 24)
      w := fixtureDescriptor ((s + 16) % 24) }

/-- The fixtures as a parameter list with the spec's defaults. -/
def fixture : Params :=
  { cascade := fixtureCascade, stepTable := fixtureStep, indexTable := fixtureIndex, sumTol := 127 }

end Sys2Proof.Tests
end

