-- ==== Sys2Proof/Tests/Slice0.lean ====
section
/-! SUPPORT. The model's own tests. Expected results are the spec's: the checks of R49, R96, R71 and R13,
the encodings of R42 and R43, and the vectors and programs of 95_test_vectors.md. The witnesses at the end
meet the hypotheses of the statements. -/

namespace Sys2Proof.Tests

open Machine

/-! ### Configuration checks: each refuses an ill-formed term -/

theorem test_fixture_passes : fixture.failures = [] := by decide +kernel

/-- Some block of the fixture, changed. -/
def withFirstBlock (change : Block → Block) : Params :=
  { fixture with cascade := (fixtureCascade.take 1).map change ++ fixtureCascade.drop 1 }

theorem test_wf_six_blocks : ({ fixture with cascade := fixtureCascade ++ fixtureCascade.take 1 } :
    Params).passes .wfSixBlocks = false := by decide
theorem test_wf_block_order : ({ fixture with cascade := fixtureCascade.reverse } :
    Params).passes .wfBlockOrder = false := by decide
theorem test_wf_phase_range : (withFirstBlock fun b => { b with rules := [⟨[], 24⟩] }).passes
    .wfPhaseRange = false := by decide
theorem test_wf_adv_distinct : (withFirstBlock fun b => { b with advB := b.advA }).passes
    .wfAdvDistinct = false := by decide
theorem test_st_shape : ({ fixture with stepTable := [[0, 0, 0, 127]] } : Params).passes
    .stShape = false := by decide
theorem test_st_range : ({ fixture with stepTable := [[0, 0, 0, 0], [-1, 0, 0, 128]] } : Params).passes
    .stRange = false := by decide
theorem test_st_row0 : ({ fixture with stepTable := [[0, 0, 0, 1]] } : Params).passes
    .stRow0 = false := by decide
theorem test_st_max : ({ fixture with stepTable := [[0, 0, 0, 126]] } : Params).passes
    .stMax = false := by decide
theorem test_it_shape : ({ fixture with indexTable := [] } : Params).passes .itShape = false := by decide
theorem test_miss_phase_range : ({ fixture with missPhase := 24 } : Params).passes
    .missPhaseRange = false := by decide
theorem test_acc_width_min : ({ fixture with accWidth := 3 } : Params).passes
    .accWidthMin = false := by decide
theorem test_configure_names_the_failures :
    configure { fixture with missPhase := 24, accWidth := 3 } =
      .error [.missPhaseRange, .accWidthMin] := by decide +kernel

/-! ### Decoding: words written out from R42 and R43 -/

theorem test_decode_nop : decode 0b000_00000001_00000010_00000011_00000100 = .nop := by decide
theorem test_decode_cycle : decode 0b001_00000001_00000010_00000011_00000100 = .cycle 1 2 3 4 := by decide
theorem test_decode_tick : decode 0b010_00000001_00000010_00000011_00000100 = .tick := by decide
theorem test_decode_cycleTick :
    decode 0b011_00000001_00000010_00000011_00000100 = .cycleTick 1 2 3 4 := by decide
theorem test_decode_reset : decode 0b100_00000001_00000010_00000011_00000100 = .reset := by decide
theorem test_decode_reset_dominates : decode 0b111_00000000_00000000_00000000_00000000 = .reset := by
  decide
theorem test_table_words :
    decodeTableWord 40 0x000000000 = some .nop ∧ decodeTableWord 40 0x100000000 = some (.cycle 0 0 0 0) ∧
    decodeTableWord 40 0x200000000 = some .tick ∧ decodeTableWord 40 0x300000000 =
      some (.cycleTick 0 0 0 0) ∧ decodeTableWord 40 0x400000000 = some .reset := by decide
/-- A line of program P3, with a comment. -/
theorem test_assemble_line :
    assembleLine "CYCLE_TICK u=34 v=0x3A amp=0 step=0; both".toList = .ok 0x3223A0000 := by decide
theorem test_bad_lines :
    parseLine "WAIT".toList = .error .unknownCommand ∧
    parseLine "CYCLE u=1 v=2 amp=3".toList = .error .wrongOperands ∧
    parseLine "CYCLE u=256 v=0 amp=0 step=0".toList = .error .badNumber := by decide

/-! ### One step of each command on the fixtures -/

def fixtureSetup : Setup := setupOf fixture test_fixture_passes

/-- A machine with the fixtures after a RESET, at the given phase, accumulator and snapshot. -/
def at_ (phase : Phase) (acc snapshot : Nat) (inputs : List CommandVector) : State where
  cfg := fixtureSetup.cfg
  stepRom := fixtureSetup.stepRom
  indexRom := fixtureSetup.indexRom
  regs := { Regs.atReset with currentPhase := phase, phaseAcc := acc, velocitySnapshot := snapshot }
  resetSeen := true
  inputs := inputs

/-- (phase, accumulator, snapshot, duties, miss_sticky) after one step. -/
def after (s : State) : Option (Nat × Nat × Nat × List Nat × Bool) :=
  match step s with
  | .next t =>
    some (t.regs.currentPhase.toNat, t.regs.phaseAcc, t.regs.velocitySnapshot,
      [t.regs.dutyU, t.regs.dutyV, t.regs.dutyW].map BitVec.toNat, t.regs.missSticky)
  | .fault _ => none
  | .refused _ => none

/-- R110's worked example. -/
theorem test_nop : after (at_ 5 7 0 [0x000000000]) = some (5, 7, 0, [128, 128, 128], false) := by
  decide +kernel
/-- Program P1, third line. -/
theorem test_cycle : after (at_ 5 5 0 [0x100023D01]) = some (13, 13, 0, [191, 191, 65], false) := by
  decide +kernel
/-- Program P2, fourth line: a miss under DEFAULT. -/
theorem test_cycle_miss : after (at_ 21 4 0 [0x1AAAA1E06]) = some (0, 7, 0, [174, 82, 82], true) := by
  decide +kernel
/-- R112's worked example. -/
theorem test_tick : after (at_ 5 9 3 [0x200000000]) = some (5, 0, 9, [128, 128, 128], false) := by
  decide +kernel
/-- Program P3, fourth line, TICK_FIRST. -/
theorem test_cycleTick_tick_first :
    after (at_ 13 13 0 [0x3223A0000]) = some (21, 8, 13, [128, 128, 128], false) := by decide +kernel
/-- Program P3, fourth line, UPDATE_FIRST. -/
theorem test_cycleTick_update_first :
    after { at_ 13 13 0 [0x3223A0000] with
      cfg := { fixtureSetup.cfg with tickOrder := .updateFirst } } =
      some (21, 0, 21, [128, 128, 128], false) := by decide +kernel
/-- V-V8: RESET with `tick = 1` takes no sample. -/
theorem test_reset : after (at_ 17 9 2 [0x600000000]) = some (0, 0, 0, [128, 128, 128], false) := by
  decide +kernel

/-! ### Witnesses: states and operands that meet the statements' hypotheses -/

/-- NopChangesNothing, CycleRunsOneControlCycle, TickSamplesAndClears, CycleTickRunsBothAtOneEdge,
ResetLoadsItsValues, StepRunsThePresentedCommand, EveryCmdValueDecodes: one vector for each clause. -/
theorem witness_vectors :
    (at_ 5 7 0 [0x0FFFFFFFF]).inputs = [0x0FFFFFFFF] ∧ CommandVector.cmd 0x0FFFFFFFF = 0b000 ∧
    CommandVector.cmd 0x1FFFFFFFF = 0b001 ∧ CommandVector.cmd 0x2FFFFFFFF = 0b010 ∧
    CommandVector.cmd 0x3FFFFFFFF = 0b011 ∧ (0x400000000 : CommandVector).getLsbD 34 = true ∧
    (0x7FFFFFFFF : CommandVector).getLsbD 34 = true := by decide

/-- CycleRunsOneControlCycle, TickSamplesAndClears, CycleTickRunsBothAtOneEdge,
NoCommandStopsTheCoreAfterReset, DutyIgnoresTheDetector, PortsShowRegistersAndDetection; and
ReadBeforeResetFaults, NothingPresentedStops. -/
theorem witness_reset_seen :
    (at_ 0 0 0 []).resetSeen = true ∧ (at_ 23 65535 65535 []).resetSeen = true ∧
    State.reset.resetSeen = true ∧ (fixtureSetup.powerUp Regs.atReset []).resetSeen = false ∧
    (at_ 0 0 0 []).inputs = [] := ⟨rfl, rfl, rfl, rfl, rfl⟩

/-- The fixtures as they power up, under a miss policy, before any RESET. -/
def unreset (policy : MissPolicy) : State :=
  Setup.powerUp { fixtureSetup with cfg := { fixtureSetup.cfg with missPolicy := policy } }
    Regs.atReset []

/-- ReadBeforeResetFaults, its last clauses: before the first RESET (170, 170) misses (V-C2), under HOLD and
under DEFAULT, and (0, 0) does not (V-C1). -/
theorem witness_miss_and_hit :
    (unreset .hold).resetSeen = false ∧ (unreset .hold).cfg.missPolicy = .hold ∧
    decision (unreset .hold).cfg 170 170 = none ∧ decision (unreset .hold).cfg 0 0 = some 5 ∧
    (unreset .defaultPhase).resetSeen = false ∧ (unreset .defaultPhase).cfg.missPolicy = .defaultPhase ∧
    decision (unreset .defaultPhase).cfg 170 170 = none := by
  decide +kernel

/-- On a miss under HOLD before the first RESET `det_phase` faults and `det_miss` reads 1 (R23, R70, R72). -/
theorem test_ports_before_reset :
    (unreset .hold).detMissPort 170 170 = true ∧
    (match (unreset .hold).detPhasePort 170 170 with
      | .error f => decide (f = .unresetRead)
      | .ok _ => false) = true := by
  decide +kernel

/-- A test state is legal when its numbers are. -/
theorem at_inv {phase : Phase} {acc snapshot : Nat} (hp : phase.toNat < 24) (ha : acc < 2 ^ 16)
    (hs : snapshot < 2 ^ 16) (inputs : List CommandVector) : (at_ phase acc snapshot inputs).Inv :=
  have hd : 1 ≤ (128 : Byte).toNat := by decide
  fun _ => ⟨hp, ha, hs, hd, hd, hd⟩

/-- StepKeepsRegistersLegal. -/
theorem witness_step_from_inv : (at_ 23 65535 0 [0x100000000]).Inv ∧
    ∃ t, step (at_ 23 65535 0 [0x100000000]) = .next t :=
  ⟨at_inv (by decide) (by decide) (by decide) _, _, rfl⟩

/-- SampleBitZeroIsDiscarded. -/
theorem witness_bit_zero : (126 : Byte).toNat / 2 = (127 : Byte).toNat / 2 ∧
    (0 : Byte).toNat / 2 = (1 : Byte).toNat / 2 ∧ (126 : Byte) ≠ 127 := by decide

/-- LastFiringRuleWins: V-C13 fires three rules, V-C2 none. -/
theorem witness_fired :
    ((fixtureCascade.flatMap fun b =>
      (b.rules.filter fun r => ruleFires (estimates 156 144) b r).map CascadeRule.phase) = [2, 9, 17]) ∧
    ((fixtureCascade.flatMap fun b =>
      (b.rules.filter fun r => ruleFires (estimates 170 170) b r).map CascadeRule.phase) = []) := by
  decide +kernel

/-- DetectedPhaseInRange, ForwardDistanceIsModulo24. -/
theorem witness_phases : (0 : Phase).toNat < 24 ∧ (23 : Phase).toNat < 24 := by decide

/-- DetectorIsPure: both policies, a hit and a miss. -/
theorem witness_policies : fixtureSetup.cfg.missPolicy = .defaultPhase ∧
    (detect { fixtureSetup.cfg with missPolicy := .hold } 7 0 0).miss = false ∧
    (detect { fixtureSetup.cfg with missPolicy := .hold } 7 170 170) = ⟨7, true⟩ := by decide +kernel

/-- AccumulatorIsExactBelowTheWrap: the greatest number of cycles for 16 bits is 5957 (R145). -/
theorem witness_accumulator : (at_ 0 0 0 []).resetSeen = true ∧ (at_ 0 0 0 []).regs.phaseAcc = 0 ∧
    (∀ i ∈ List.replicate 5957 (Instr.cycle 0 0 61 0), ∃ u v a n, i = .cycle u v a n) ∧
    11 * (List.replicate 5957 (Instr.cycle 0 0 61 0)).length < 2 ^ (at_ 0 0 0 []).cfg.accWidth := by
  refine ⟨rfl, rfl, fun i hi => ⟨0, 0, 61, 0, List.eq_of_mem_replicate hi⟩, ?_⟩
  rw [List.length_replicate]
  decide

/-- CommandedValuesAreClamped, at the ends of its two ranges. -/
theorem witness_clamps : 61 ≤ (61 : Byte).toNat ∧ 61 ≤ (255 : Byte).toNat ∧ 23 ≤ (23 : Byte).toNat ∧
    23 ≤ (255 : Byte).toNat := by decide

/-- DutyIgnoresTheDetector: two machines that differ in every register share their ROMs. -/
theorem witness_same_roms : (at_ 0 0 0 []).stepRom = (at_ 23 9 7 []).stepRom ∧
    (at_ 0 0 0 []).indexRom = (at_ 23 9 7 []).indexRom ∧ (at_ 0 0 0 []).regs ≠ (at_ 23 9 7 []).regs :=
  ⟨rfl, rfl, fun h => absurd (congrArg Regs.phaseAcc h) (by decide)⟩

/-- ConfiguredRomsHoldTheTables. -/
theorem witness_configure : configure fixture = .ok fixtureSetup := dif_pos test_fixture_passes

/-- NoCommandChangesConfiguration, OnlyTheirWritersChangeRegisters: a command of each kind completes. -/
theorem witness_exec : (∃ t, exec .nop (at_ 1 2 3 []) = .next t) ∧ (∃ t, exec .tick (at_ 1 2 3 []) = .next t) ∧
    (∃ t, exec (.cycle 0 0 61 3) (at_ 1 2 3 []) = .next t) ∧
    (∃ t, exec (.cycleTick 0 0 61 3) (at_ 1 2 3 []) = .next t) ∧ Instr.nop ≠ .reset ∧
    Instr.samples? .tick = none ∧ Instr.takesSample (.cycle 0 0 61 3) = false ∧
    Instr.samples? .nop = none ∧ Instr.takesSample .nop = false :=
  ⟨⟨_, rfl⟩, ⟨_, rfl⟩, ⟨_, rfl⟩, ⟨_, rfl⟩, by decide, rfl, rfl, rfl, rfl⟩

/-- OnlyTheirWritersChangeRegisters, its last clause: a state whose miss bit is set. -/
theorem witness_miss_bit :
    ({ at_ 1 2 3 [] with regs := { Regs.atReset with missSticky := true } } : State).regs.missSticky = true :=
  rfl

/-- MissStickyRecordsEveryMiss, HeldPhaseIsTheLastDetection. -/
theorem witness_commands : Instr.reset ∉ [Instr.cycle 0 0 61 0, .tick, .nop] ∧
    (∀ i ∈ [Instr.tick, .nop], i.samples? = none ∧ i ≠ .reset) ∧
    (Instr.cycle 0 0 61 0).samples? = some (0, 0) := by decide

/-- FirstCycleAfterReset: NOPs and TICKs between, and a configuration of each order. -/
theorem witness_between : (∀ i ∈ [Instr.tick, .nop, .tick], i = .nop ∨ i = .tick) ∧
    fixtureSetup.cfg.tickOrder = .tickFirst ∧
    ({ fixtureSetup.cfg with tickOrder := .updateFirst } : Config).tickOrder = .updateFirst :=
  ⟨by decide, rfl, rfl⟩

/-- EveryCommandKeepsTheTallyBalanced: a balanced tally with an accumulator, from which CYCLE_TICK
completes. -/
theorem witness_balanced : Tally.Balanced ⟨at_ 5 4 3 [], 3, 7⟩ ∧
    ∃ after, Tally.command (.cycleTick 0 2 61 1) ⟨at_ 5 4 3 [], 3, 7⟩ = some after :=
  ⟨rfl, _, rfl⟩

/-- TickOrdersAgreeWithoutContribution: from phase 5, (0, 0) detects 5 (V-C1), a distance of 0. -/
theorem witness_no_contribution : (at_ 5 4 1 []).resetSeen = true ∧ (at_ 5 4 1 []).Inv ∧
    (at_ 5 4 1 []).cfg.tickOrder = .tickFirst ∧
    contributedBy (.cycleTick 0 0 61 0) (at_ 5 4 1 []) = 0 :=
  ⟨rfl, at_inv (by decide) (by decide) (by decide) _, rfl, by decide +kernel⟩

end Sys2Proof.Tests
end

namespace Sys2Proof.Machine

/-! ### Commands as a function on states

Where a RESET has been given every command completes, so a run is a total function of the state; the
statements about runs are proved of that function. -/

/-- The machine right after RESET from `s` (R130). -/
def State.afterReset (s : State) : State := { s.withRegs resetValues with resetSeen := true }

@[simp] theorem afterReset_cfg (s : State) : s.afterReset.cfg = s.cfg := rfl
@[simp] theorem afterReset_regs (s : State) : s.afterReset.regs = Regs.atReset := rfl
@[simp] theorem afterReset_resetSeen (s : State) : s.afterReset.resetSeen = true := rfl

/-- RESET completes in every state. -/
@[simp] theorem exec_reset (s : State) : exec .reset s = .next s.afterReset := rfl

/-- The state a list of commands leaves where each of them completes. -/
def State.afterCommands : List Instr → State → State
  | [], s => s
  | i :: later, s => afterCommands later (s.withRegs (regsAfter i s))

@[simp] theorem afterCommands_nil (s : State) : s.afterCommands [] = s := rfl

@[simp] theorem afterCommands_cons (i : Instr) (later : List Instr) (s : State) :
    s.afterCommands (i :: later) = (s.withRegs (regsAfter i s)).afterCommands later := rfl

theorem afterCommands_append (before later : List Instr) (s : State) :
    s.afterCommands (before ++ later) = (s.afterCommands before).afterCommands later := by
  induction before generalizing s with
  | nil => rfl
  | cons i before ih => exact ih _

@[simp] theorem afterCommands_cfg (commands : List Instr) (s : State) :
    (s.afterCommands commands).cfg = s.cfg := by
  induction commands generalizing s with
  | nil => rfl
  | cons i later ih => exact ih _

/-- After a RESET every list of commands completes (R120). -/
theorem runCommands_of_resetSeen (commands : List Instr) {s : State} (h : s.resetSeen = true) :
    runCommands commands s = .next (s.afterCommands commands) := by
  induction commands generalizing s with
  | nil => rfl
  | cons i later ih =>
    have run_later := ih (s := s.withRegs (regsAfter i s)) h
    simp [runCommands, exec_of_resetSeen h, run_later]

/-- A run that begins with RESET completes from every state. -/
theorem runCommands_reset_cons (commands : List Instr) (s : State) :
    runCommands (.reset :: commands) s = .next (s.afterReset.afterCommands commands) :=
  runCommands_of_resetSeen commands (afterReset_resetSeen s)

/-- A command that answers a next state has changed the registers, and at most the reset bit beside
them. -/
theorem exec_next_eq {i : Instr} {s t : State} (h : exec i s = .next t) :
    t = { s.withRegs (regsAfter i s) with resetSeen := t.resetSeen } := by
  rcases exec_next h with ⟨_, rfl⟩ | ⟨rfl, rfl⟩ | ⟨rfl, rfl⟩ <;> rfl

/-- The registers a completed command leaves, RESET and a NOP before the first RESET included. -/
theorem exec_next_regs {i : Instr} {s t : State} (h : exec i s = .next t) : t.regs = regsAfter i s := by
  rw [exec_next_eq h]
  rfl

/-! ### What a command leaves in each register -/

/-- A control cycle holds the phase it detected (R84). -/
theorem regsAfter_currentPhase_of_samples {i : Instr} {u v : Byte} (h : i.samples? = some (u, v))
    (s : State) :
    (regsAfter i s).currentPhase = (detect s.cfg s.regs.currentPhase u v).phase := by
  cases i with
  | cycle u' v' a n | cycleTick u' v' a n =>
    obtain ⟨rfl, rfl⟩ : u' = u ∧ v' = v := by simpa [Instr.samples?] using h
    rfl
  | nop | tick | reset => cases h

/-- A command without a control cycle writes the accumulator and the snapshot at most (R112). -/
theorem regsAfter_of_no_samples {i : Instr} (hreset : i ≠ .reset) (h : i.samples? = none) (s : State) :
    ∃ acc snapshot,
      regsAfter i s = { s.regs with phaseAcc := acc, velocitySnapshot := snapshot } := by
  cases i with
  | nop => exact ⟨_, _, rfl⟩
  | tick => exact ⟨_, _, rfl⟩
  | cycle u v a n | cycleTick u v a n => cases h
  | reset => exact absurd rfl hreset

/-- Only TICK and CYCLE_TICK write the snapshot (R14). -/
theorem regsAfter_velocitySnapshot_of_no_sample {i : Instr} (hreset : i ≠ .reset)
    (h : i.takesSample = false) (s : State) :
    (regsAfter i s).velocitySnapshot = s.regs.velocitySnapshot := by
  cases i with
  | nop | cycle u v a n => rfl
  | tick | cycleTick u v a n => cases h
  | reset => exact absurd rfl hreset

/-- A command that neither runs a control cycle nor takes a sample keeps the accumulator (R13). -/
theorem regsAfter_phaseAcc_of_neither {i : Instr} (hreset : i ≠ .reset) (hcycle : i.samples? = none)
    (hsample : i.takesSample = false) (s : State) : (regsAfter i s).phaseAcc = s.regs.phaseAcc := by
  cases i with
  | nop => rfl
  | tick => cases hsample
  | cycle u v a n | cycleTick u v a n => cases hcycle
  | reset => exact absurd rfl hreset

/-- The command runs a control cycle in which the cascade fires no rule. -/
def CycleMisses (cfg : Config) (i : Instr) : Prop :=
  ∃ u v, i.samples? = some (u, v) ∧ decision cfg u v = none

/-- A control cycle misses exactly when its samples fire no rule. -/
theorem cycleMisses_of_samples {i : Instr} {u v : Byte} (h : i.samples? = some (u, v)) (cfg : Config) :
    CycleMisses cfg i ↔ decision cfg u v = none := by
  simp [CycleMisses, h]

/-- A command without a control cycle misses nothing. -/
theorem not_cycleMisses_of_no_samples {i : Instr} (h : i.samples? = none) (cfg : Config) :
    ¬ CycleMisses cfg i := by
  simp [CycleMisses, h]

/-- The miss bit after a command: set before it, or by its own miss (R16). -/
theorem regsAfter_missSticky_iff {i : Instr} (hreset : i ≠ .reset) (s : State) :
    (regsAfter i s).missSticky = true ↔ s.regs.missSticky = true ∨ CycleMisses s.cfg i := by
  cases i with
  | nop | tick => exact (or_iff_left (not_cycleMisses_of_no_samples rfl _)).symm
  | cycle u v a n | cycleTick u v a n =>
    rw [cycleMisses_of_samples rfl, ← detect_miss_iff _ s.regs.currentPhase]
    simp [regsAfter]
  | reset => exact absurd rfl hreset

/-! ### The legal register values -/

/-- The phase reported on a miss is in 0..23 (R71). -/
theorem missResult_lt (cfg : Config) {cur : Phase} (h : cur.toNat < nPhases) :
    (missResult cfg cur).toNat < nPhases := by
  unfold missResult
  split
  · exact cfg.missPhaseOk
  · exact h

/-- From a held phase in 0..23 the detected one is in 0..23 (R71). -/
theorem detect_phase_lt (cfg : Config) {cur : Phase} (h : cur.toNat < nPhases) (u v : Byte) :
    (detect cfg cur u v).phase.toNat < nPhases := by
  cases hd : decision cfg u v with
  | some p =>
    rw [detect_of_decision hd, BitVec.toNat_ofNat]
    exact lt_of_le_of_lt (Nat.mod_le _ _) (decision_lt hd)
  | none =>
    rw [detect_of_miss hd]
    exact missResult_lt cfg h

/-- What CYCLE_TICK samples fits the snapshot. -/
theorem tickSnapshot_lt (cfg : Config) {acc : Nat} (h : acc < 2 ^ cfg.accWidth) (contrib : Nat) :
    tickSnapshot cfg acc contrib < 2 ^ cfg.accWidth := by
  unfold tickSnapshot
  split
  · exact h
  · exact accAdd_lt _ _ _

/-- What CYCLE_TICK leaves fits the accumulator. -/
theorem tickRemainder_lt (cfg : Config) {contrib : Nat} (h : contrib < 2 ^ cfg.accWidth) :
    tickRemainder cfg contrib < 2 ^ cfg.accWidth := by
  unfold tickRemainder
  split
  · exact h
  · exact Nat.two_pow_pos _

/-- The values RESET loads are legal (R22). -/
theorem atReset_legal (cfg : Config) : Regs.atReset.Legal cfg where
  phase := by decide
  acc := Nat.two_pow_pos _
  snapshot := Nat.two_pow_pos _
  dutyU := by decide
  dutyV := by decide
  dutyW := by decide

/-- Legal registers stay legal under sums that fit `ACC_WIDTH`. -/
theorem Regs.Legal.with_sums {cfg : Config} {r : Regs} {acc snapshot : Nat} (h : r.Legal cfg)
    (hacc : acc < 2 ^ cfg.accWidth) (hsnapshot : snapshot < 2 ^ cfg.accWidth) :
    Regs.Legal cfg { r with phaseAcc := acc, velocitySnapshot := snapshot } :=
  { h with acc := hacc, snapshot := hsnapshot }

/-- A control cycle's phase and duties are legal. -/
theorem controlRegs_legal {s : State} (h : s.regs.Legal s.cfg) (u v a n : Byte) :
    (controlRegs s u v a n).Legal s.cfg where
  phase := detect_phase_lt s.cfg h.phase u v
  acc := h.acc
  snapshot := h.snapshot
  dutyU := dutyOf_pos _ _ _
  dutyV := dutyOf_pos _ _ _
  dutyW := dutyOf_pos _ _ _

/-- Every command leaves legal registers legal. -/
theorem regsAfter_legal {s : State} (h : s.regs.Legal s.cfg) (i : Instr) :
    (regsAfter i s).Legal s.cfg := by
  cases i with
  | nop => exact h
  | cycle u v a n => exact (controlRegs_legal h u v a n).with_sums (accAdd_lt _ _ _) h.snapshot
  | tick => exact h.with_sums (Nat.two_pow_pos _) h.acc
  | cycleTick u v a n =>
    exact (controlRegs_legal h u v a n).with_sums (tickRemainder_lt _ (contribution_lt _ _ _))
      (tickSnapshot_lt _ h.acc _)
  | reset => exact atReset_legal _

/-- Every command that answers a next state keeps the invariant. -/
theorem exec_keeps_inv {i : Instr} {s t : State} (hinv : s.Inv) (h : exec i s = .next t) : t.Inv := by
  rcases exec_next h with ⟨hseen, rfl⟩ | ⟨-, rfl⟩ | ⟨-, rfl⟩
  · exact fun _ => regsAfter_legal (hinv hseen) i
  · exact hinv
  · exact fun _ => atReset_legal _

/-- Legal registers stay legal over a run. -/
theorem afterCommands_legal (commands : List Instr) {s : State} (h : s.regs.Legal s.cfg) :
    (s.afterCommands commands).regs.Legal s.cfg := by
  induction commands generalizing s with
  | nil => exact h
  | cons i later ih => exact ih (s := s.withRegs (regsAfter i s)) (regsAfter_legal h i)

/-! ### The phase and the miss bit over a run -/

/-- Commands without a control cycle keep the held phase. -/
theorem afterCommands_currentPhase_of_no_samples {commands : List Instr}
    (h : ∀ i ∈ commands, i.samples? = none ∧ i ≠ .reset) (s : State) :
    (s.afterCommands commands).regs.currentPhase = s.regs.currentPhase := by
  induction commands generalizing s with
  | nil => rfl
  | cons i later ih =>
    obtain ⟨⟨hcycle, hreset⟩, hlater⟩ := List.forall_mem_cons.mp h
    obtain ⟨acc, snapshot, hregs⟩ := regsAfter_of_no_samples hreset hcycle s
    rw [afterCommands_cons, ih hlater, withRegs_regs, hregs]

/-- The miss bit after a run without RESET: set before it, or by a cycle that missed. -/
theorem afterCommands_missSticky_iff {commands : List Instr} (h : .reset ∉ commands) (s : State) :
    (s.afterCommands commands).regs.missSticky = true ↔
      s.regs.missSticky = true ∨ ∃ i ∈ commands, CycleMisses s.cfg i := by
  induction commands generalizing s with
  | nil => simp
  | cons i later ih =>
    obtain ⟨hi, hlater⟩ : .reset ≠ i ∧ .reset ∉ later := by simpa using h
    rw [afterCommands_cons, ih hlater, withRegs_regs, withRegs_cfg,
      regsAfter_missSticky_iff (Ne.symm hi), or_assoc]
    simp

/-! ### Port reads -/

/-- On a miss under DEFAULT `det_phase` shows `MISS_PHASE`, RESET or not. -/
theorem detPhasePort_of_miss_default {s : State} {u v : Byte} (h : decision s.cfg u v = none)
    (hpolicy : s.cfg.missPolicy = .defaultPhase) : s.detPhasePort u v = .ok s.cfg.missPhase := by
  simp [State.detPhasePort, h, hpolicy]

/-- On a miss under HOLD `det_phase` is a read of the held phase. -/
theorem detPhasePort_of_miss_hold {s : State} {u v : Byte} (h : decision s.cfg u v = none)
    (hpolicy : s.cfg.missPolicy = .hold) : s.detPhasePort u v = s.currentPhasePort := by
  simp [State.detPhasePort, h, hpolicy]

/-- Before the first RESET `det_phase` faults exactly on a miss under HOLD (log entry 12). -/
theorem detPhasePort_faults_iff {s : State} (hs : s.resetSeen = false) (u v : Byte) :
    s.detPhasePort u v = .error .unresetRead ↔
      decision s.cfg u v = none ∧ s.cfg.missPolicy = .hold := by
  cases hd : decision s.cfg u v with
  | some p => simp [detPhasePort_of_decision hd]
  | none =>
    cases hp : s.cfg.missPolicy with
    | defaultPhase => simp [detPhasePort_of_miss_default hd hp]
    | hold => simp [detPhasePort_of_miss_hold hd hp, State.currentPhasePort, hs]

/-- A register port depends on the reset bit and on what it reads, on nothing else. -/
theorem registerPort_congr {α : Type} {s s' : State} {read : Regs → α}
    (hseen : s'.resetSeen = s.resetSeen) (hread : read s'.regs = read s.regs) :
    s'.registerPort read = s.registerPort read := by
  simp [State.registerPort, hseen, hread]

/-- `det_phase` depends on the configuration and the port `current_phase` alone. -/
theorem detPhasePort_congr {s s' : State} (hcfg : s'.cfg = s.cfg)
    (hport : s'.currentPhasePort = s.currentPhasePort) (u v : Byte) :
    s'.detPhasePort u v = s.detPhasePort u v := by
  simp [State.detPhasePort, hcfg, hport]

/-- `det_miss` depends on the configuration alone. -/
theorem detMissPort_congr {s s' : State} (hcfg : s'.cfg = s.cfg) (u v : Byte) :
    s'.detMissPort u v = s.detMissPort u v := by
  simp [State.detMissPort, hcfg]

/-! ### The statements about the state -/

/-- Settles O16: a step is a command on the state whose next vector is taken, and every command keeps the
invariant. -/
theorem stepKeepsRegistersLegal : Obligations.StepKeepsRegistersLegal := by
  intro s t hinv h
  obtain ⟨v, later, -, hexec⟩ := step_next h
  exact exec_keeps_inv (s := { s with inputs := later }) hinv hexec

/-- Settles O41, from the miss bit over a run, which RESET starts cleared. -/
theorem missStickyRecordsEveryMiss : Obligations.MissStickyRecordsEveryMiss := by
  intro s commands hreset
  refine ⟨_, runCommands_reset_cons commands s, ?_⟩
  rw [afterCommands_missSticky_iff hreset]
  simp [Regs.atReset, CycleMisses]

/-- Settles O42: the cycle writes what it detected, what follows keeps it, and the run from RESET keeps the
phase legal. -/
theorem heldPhaseIsTheLastDetection : Obligations.HeldPhaseIsTheLastDetection := by
  intro s before after hafter
  refine ⟨⟨_, runCommands_reset_cons after s, ?_⟩, fun i u v hi =>
    ⟨_, _, runCommands_reset_cons before s, runCommands_reset_cons (before ++ i :: after) s, ?_, ?_⟩⟩
  · rw [afterCommands_currentPhase_of_no_samples hafter]
    rfl
  · rw [afterCommands_append, afterCommands_cons, afterCommands_currentPhase_of_no_samples hafter,
      withRegs_regs, regsAfter_currentPhase_of_samples hi, afterCommands_cfg, afterReset_cfg]
  · exact (afterCommands_legal _ (atReset_legal s.cfg : s.afterReset.regs.Legal s.cfg)).phase

/-- Settles O6: the reset state's registers are the values RESET loads. -/
theorem resetStateHoldsTheResetValues : Obligations.ResetStateHoldsTheResetValues :=
  ⟨rfl, rfl, rfl, rfl, rfl, rfl, rfl, exec_reset⟩

/-- Settles O7: an edge and a register port fault while no RESET has been given, and `det_phase` is a
register port only on a miss under HOLD. -/
theorem readBeforeResetFaults : Obligations.ReadBeforeResetFaults := by
  intro s hs
  refine ⟨edge_of_not_resetSeen hs _,
    fun u v a n => ⟨edge_of_not_resetSeen hs _, edge_of_not_resetSeen hs _⟩,
    registerPort_of_not_resetSeen hs _, registerPort_of_not_resetSeen hs _,
    registerPort_of_not_resetSeen hs _, registerPort_of_not_resetSeen hs _, fun u v =>
      ⟨detPhasePort_faults_iff hs u v, fun p hp => detPhasePort_of_decision hp,
        detPhasePort_of_miss_default, ?_⟩⟩
  rw [detMissPort_eq s s.regs.currentPhase, detect_miss_iff]

/-- Settles O17: RESET's values are legal, and at power-up no RESET has been given. -/
theorem resetAndPowerUpAreLegal : Obligations.ResetAndPowerUpAreLegal :=
  ⟨fun _ => atReset_legal _, fun setup regs inputs hseen =>
    absurd hseen (by simp)⟩

/-- Settles O37: a completed command has changed only registers and the reset bit. -/
theorem noCommandChangesConfiguration : Obligations.NoCommandChangesConfiguration := by
  intro i s t h
  rw [exec_next_eq h]
  exact ⟨rfl, rfl, rfl, rfl⟩

/-- Settles O38, register by register from what each command leaves. -/
theorem onlyTheirWritersChangeRegisters : Obligations.OnlyTheirWritersChangeRegisters := by
  intro i s t h hreset
  rw [exec_next_regs h]
  refine ⟨fun hcycle => ?_, fun hsample => regsAfter_velocitySnapshot_of_no_sample hreset hsample s,
    fun hcycle hsample => regsAfter_phaseAcc_of_neither hreset hcycle hsample s,
    fun hmiss => (regsAfter_missSticky_iff hreset s).mpr (.inl hmiss)⟩
  obtain ⟨acc, snapshot, hregs⟩ := regsAfter_of_no_samples hreset hcycle s
  rw [hregs]
  exact ⟨rfl, rfl, rfl, rfl, rfl⟩

/-- Settles O45: no port reads `phaseAcc`, and `det_phase` reads at most the port `current_phase`. -/
theorem accumulatorIsOnNoPort : Obligations.AccumulatorIsOnNoPort := by
  intro s acc s'
  have hphase : s'.currentPhasePort = s.currentPhasePort := registerPort_congr rfl rfl
  exact ⟨hphase, registerPort_congr rfl rfl, registerPort_congr rfl rfl, registerPort_congr rfl rfl,
    fun u v => ⟨detPhasePort_congr rfl hphase u v, detMissPort_congr rfl u v⟩⟩

end Sys2Proof.Machine

namespace Sys2Proof.Machine

/-! ### The presented vectors and the commands

No command reads or takes a presented vector (R34, R136), so exchanging them commutes with every command
and leaves whether it completes, faults or is refused as it was. -/

/-- The outcome with `vectors` to be presented in the next state; a fault or a refusal has none. -/
def outcomeWithProgram (vectors : List CommandVector) :
    Host.Outcome State Fault Refusal → Host.Outcome State Fault Refusal
  | .next t => .next (t.withProgram vectors)
  | .fault f => .fault f
  | .refused r => .refused r

/-- An edge reads only the reset bit. -/
theorem edge_withProgram (s : State) (vectors : List CommandVector) (r : Regs) :
    (s.withProgram vectors).edge r = outcomeWithProgram vectors (s.edge r) := by
  cases h : s.resetSeen with
  | true =>
    rw [edge_of_resetSeen h, edge_of_resetSeen ((withProgram_resetSeen s vectors).trans h)]
    rfl
  | false =>
    rw [edge_of_not_resetSeen h, edge_of_not_resetSeen ((withProgram_resetSeen s vectors).trans h)]
    rfl

/-- What a command does depends on no presented vector, its fault before the first RESET included. -/
theorem exec_withProgram (i : Instr) (s : State) (vectors : List CommandVector) :
    exec i (s.withProgram vectors) = outcomeWithProgram vectors (exec i s) := by
  cases i with
  | nop | reset => rfl
  | cycle u v a n | tick | cycleTick u v a n => exact edge_withProgram s vectors _

/-- A step presents the first vector's command to the machine and the later vectors to its successor. -/
theorem step_withProgram_cons (s : State) (v : CommandVector) (later : List CommandVector) :
    step (s.withProgram (v :: later)) = outcomeWithProgram later (exec (decode v) s) :=
  exec_withProgram (decode v) s later

/-- A run over a program is the run of its commands, whichever way it ends. -/
theorem run_withProgram (vectors : List CommandVector) (s : State) :
    Sys2Proof.core.run vectors.length (s.withProgram vectors) =
      runCommands (vectors.map decode) (s.withProgram []) := by
  induction vectors generalizing s with
  | nil => rfl
  | cons v later ih =>
    have hstep : Sys2Proof.core.step (s.withProgram (v :: later)) =
        outcomeWithProgram later (exec (decode v) s) := step_withProgram_cons s v later
    simp only [List.length_cons, List.map_cons, Host.Core.run, runCommands, hstep, exec_withProgram]
    cases exec (decode v) s with
    | next t => exact ih t
    | fault f => rfl
    | refused r => rfl

/-! ### The ROMs of a configuration

A successful configuration stores each table entry in one ROM word, and the word reads back as the entry
(R30, R45 to R47). -/

/-- Rows of one width `k`, laid one after another: cell (a, c) stands at `k*a + c`. -/
theorem getElem?_flatten_of_width {α : Type} {k : Nat} {table : List (List α)}
    (hwidth : ∀ row ∈ table, row.length = k) (a : Nat) {c : Nat} (hc : c < k) :
    table.flatten[k * a + c]? = table[a]?.bind (·[c]?) := by
  induction table generalizing a with
  | nil => simp
  | cons row rows ih =>
    obtain ⟨hrow, hrows⟩ := List.forall_mem_cons.mp hwidth
    cases a with
    | zero => simp [List.getElem?_append_left (hrow.symm ▸ hc)]
    | succ a =>
      have hskip : k * (a + 1) + c = row.length + (k * a + c) := by rw [hrow, Nat.mul_succ]; omega
      simp [hskip, List.getElem?_append_right, ih hrows]

/-- A cell in 0..127 fits the 7 bits of a ROM cell (R47). -/
theorem toNat_ofInt_cell {cell : Int} (hlow : 0 ≤ cell) (hhigh : cell ≤ magMax) :
    ((BitVec.ofInt 7 cell).toNat : Int) = cell := by
  simp only [magMax] at hhigh
  rw [BitVec.toNat_ofInt]
  omega

/-- Every row of a table of the right shape has four cells. -/
theorem row_length_of_tableShape {table : List (List Int)} (h : tableShape table = true) :
    ∀ row ∈ table, row.length = 4 := by
  simp only [tableShape, Bool.and_eq_true, List.all_eq_true, decide_eq_true_eq] at h
  exact h.2

/-- Every cell of a table that passes the range check is in 0..127. -/
theorem cell_bounds_of_tableRange {table : List (List Int)} (h : tableRange table = true)
    {row : List Int} (hrow : row ∈ table) {cell : Int} (hcell : cell ∈ row) :
    0 ≤ cell ∧ cell ≤ magMax := by
  simp only [tableRange, List.all_eq_true, decide_eq_true_eq] at h
  exact h row hrow cell hcell

/-- `StepROM(a, c)` is the ROM's cell at flat address `4*a + c` (R30). -/
theorem stepRom_cells_getElem? (rom : StepRom) (a : Fin (ampMax + 1)) (c : BitVec 2) :
    rom.cells[4 * a.val + c.toNat]? = some (stepRomRead rom a c) :=
  List.getElem?_eq_getElem _

/-- `IndexROM(s)` is the ROM's word at `s` (R30). -/
theorem indexRom_words_getElem? (rom : IndexRom) (n : Fin nPhases) :
    rom.words[n.val]? = some (indexRomRead rom n) :=
  List.getElem?_eq_getElem _

/-- A step ROM built from a table reads the table's cells. -/
theorem stepRomRead_eq_cell {table : List (List Int)} {rom : StepRom} (hcells : rom.cells = stepCells table)
    (hshape : tableShape table = true) (hrange : tableRange table = true) (a : Fin (ampMax + 1))
    (c : BitVec 2) :
    ∃ row, table[a.val]? = some row ∧ row[c.toNat]? = some ((stepRomRead rom a c).toNat : Int) := by
  have hread := stepRom_cells_getElem? rom a c
  rw [hcells, stepCells, List.getElem?_map,
    getElem?_flatten_of_width (row_length_of_tableShape hshape) _ c.isLt] at hread
  obtain ⟨cell, hcell, hvalue⟩ := Option.map_eq_some_iff.mp hread
  obtain ⟨row, hrow, hcol⟩ := Option.bind_eq_some_iff.mp hcell
  obtain ⟨hlow, hhigh⟩ := cell_bounds_of_tableRange hrange (List.mem_of_getElem? hrow)
    (List.mem_of_getElem? hcol)
  exact ⟨row, hrow, by rw [hcol, ← hvalue, toNat_ofInt_cell hlow hhigh]⟩

/-- An index ROM built from a table reads words that unpack to the table's entries. -/
theorem unpackEntry_indexRomRead {table : List IndexEntry} {rom : IndexRom}
    (hwords : rom.words = indexWords table) (n : Fin nPhases) :
    table[n.val]? = some (unpackEntry (indexRomRead rom n)) := by
  have hread := indexRom_words_getElem? rom n
  rw [hwords, indexWords, List.getElem?_map] at hread
  obtain ⟨entry, hentry, hword⟩ := Option.map_eq_some_iff.mp hread
  rw [hentry, ← hword, unpack_packEntry]

/-! ### The statements about memory and ordering -/

/-- Settles O10, by induction on the presented vectors: each step is its command with the later vectors
put back. -/
theorem runIsItsCommandsInOrder : Obligations.RunIsItsCommandsInOrder :=
  fun s => run_withProgram s.inputs s

/-- Settles O35: configuration builds the ROMs from tables that passed the checks of shape and range. -/
theorem configuredRomsHoldTheTables : Obligations.ConfiguredRomsHoldTheTables := by
  intro p setup h
  obtain ⟨passes, rfl⟩ := configure_ok h
  exact ⟨stepRomRead_eq_cell rfl (passes_of_failures_nil passes .stShape)
    (passes_of_failures_nil passes .stRange), unpackEntry_indexRomRead rfl⟩

end Sys2Proof.Machine

namespace Sys2Proof.Machine

/-! ### Decoding

The decoder reads three bits of `cmd`; each row of the opcode table (R42) is one of the lemmas below, and the
round trip with the encoder goes through them. -/

theorem decode_of_cmd_nop {v : CommandVector} (h : v.cmd = 0b000) : decode v = .nop := by
  simp [decode, h]

theorem decode_of_cmd_cycle {v : CommandVector} (h : v.cmd = 0b001) :
    decode v = .cycle v.uSense v.vSense v.amplitude v.step := by
  simp [decode, h]

theorem decode_of_cmd_tick {v : CommandVector} (h : v.cmd = 0b010) : decode v = .tick := by
  simp [decode, h]

theorem decode_of_cmd_cycleTick {v : CommandVector} (h : v.cmd = 0b011) :
    decode v = .cycleTick v.uSense v.vSense v.amplitude v.step := by
  simp [decode, h]

/-- Bit 34 is `rst`, the top bit of `cmd` (R43). -/
theorem cmd_getLsbD_two (v : CommandVector) : v.cmd.getLsbD 2 = v.getLsbD 34 := by
  simp [CommandVector.cmd]

/-- `rst` dominates the other two bits of `cmd` (R42). -/
theorem decode_of_rst {v : CommandVector} (h : v.getLsbD 34 = true) : decode v = .reset := by
  simp [decode, cmd_getLsbD_two, h]

/-- The encoder loses nothing of a command (R51). -/
@[simp] theorem decode_encode (i : Instr) : decode (encode i) = i := by
  cases i with
  | nop => exact decode_of_cmd_nop (CommandVector.cmd_ofFields ..)
  | cycle u v a s =>
    rw [encode, decode_of_cmd_cycle (CommandVector.cmd_ofFields ..)]
    simp
  | tick => exact decode_of_cmd_tick (CommandVector.cmd_ofFields ..)
  | cycleTick u v a s =>
    rw [encode, decode_of_cmd_cycleTick (CommandVector.cmd_ofFields ..)]
    simp
  | reset =>
    have hrst : (encode .reset).cmd.getLsbD 2 = true := by simp [encode]
    exact decode_of_rst (cmd_getLsbD_two _ ▸ hrst)

/-! ### Program lines

A printed line is its command name and, for CYCLE and CYCLE_TICK, four operand words, each after a space
(R51). No word holds a space or a semicolon, so the parser finds the same words again. -/

/-- An operand as a line writes it: its name with the equals sign, then the number. -/
def operandWord (name : List Char) (form : NumberForm) (b : Byte) : List Char :=
  name ++ printNumber form b

/-- An operand word reads back as its byte, whichever form it is in. -/
@[simp] theorem parseOperand_operandWord (name : List Char) (form : NumberForm) (b : Byte) :
    parseOperand name (operandWord name form b) = .ok b := by
  simp [parseOperand, operandWord]

theorem printNumber_no_space (form : NumberForm) (b : Byte) :
    (printNumber form b).all (fun c => c != ' ') = true := by
  have hclean := printNumber_clean form b
  simp only [List.all_eq_true, Bool.and_eq_true] at hclean ⊢
  exact fun c hc => (hclean c hc).1

theorem printNumber_no_semicolon (form : NumberForm) (b : Byte) :
    (printNumber form b).all (fun c => c != ';') = true := by
  have hclean := printNumber_clean form b
  simp only [List.all_eq_true, Bool.and_eq_true] at hclean ⊢
  exact fun c hc => (hclean c hc).2

theorem operandWord_no_space {name : List Char} (hname : name.all (fun c => c != ' ') = true)
    (form : NumberForm) (b : Byte) :
    (operandWord name form b).all (fun c => c != ' ') = true := by
  rw [operandWord, List.all_append, hname, printNumber_no_space, Bool.and_self]

/-- The four operand words of a line, in the order of the grammar (R51). -/
def operandWords (forms : OperandForms) (u v a s : Byte) : List (List Char) :=
  [operandWord ['u', '='] forms.u u, operandWord ['v', '='] forms.v v,
    operandWord ['a', 'm', 'p', '='] forms.amp a, operandWord ['s', 't', 'e', 'p', '='] forms.step s]

/-- Four operand words read back as the command made of their bytes. -/
theorem parseOperands_operandWords (make : Byte → Byte → Byte → Byte → Instr) (forms : OperandForms)
    (u v a s : Byte) : parseOperands make (operandWords forms u v a s) = .ok (make u v a s) := by
  simp only [operandWords, parseOperands, parseOperand_operandWord]
  rfl

/-- The words of a printed line with operands are its command name and the four operand words. -/
theorem wordsOf_append_printOperands {command : List Char}
    (hcommand : command.all (fun c => c != ' ') = true) (forms : OperandForms) (u v a s : Byte) :
    wordsOf (command ++ printOperands forms u v a s) = command :: operandWords forms u v a s := by
  have hspaces : command ++ printOperands forms u v a s =
      command ++ ' ' :: (operandWord ['u', '='] forms.u u ++
        ' ' :: (operandWord ['v', '='] forms.v v ++
          ' ' :: (operandWord ['a', 'm', 'p', '='] forms.amp a ++
            ' ' :: operandWord ['s', 't', 'e', 'p', '='] forms.step s))) := by
    simp [printOperands, operandWord]
  rw [hspaces, wordsOf_append_space _ _ hcommand,
    wordsOf_append_space _ _ (operandWord_no_space (by decide) _ _),
    wordsOf_append_space _ _ (operandWord_no_space (by decide) _ _),
    wordsOf_append_space _ _ (operandWord_no_space (by decide) _ _),
    wordsOf_one _ (operandWord_no_space (by decide) _ _), operandWords]

/-- A printed line holds no semicolon, so nothing in it is taken for a comment. -/
theorem printLine_no_semicolon (forms : OperandForms) (i : Instr) :
    (printLine forms i).all (fun c => c != ';') = true := by
  cases i with
  | nop | tick | reset => rfl
  | cycle u v a s | cycleTick u v a s =>
    simp [printLine, printOperands, List.all_append, printNumber_no_semicolon, -List.all_eq_true]

/-- Text that is a command's printed line once its comment is stripped parses to the command. -/
theorem parseLine_of_stripComment {text : List Char} {forms : OperandForms} {i : Instr}
    (h : stripComment text = printLine forms i) : parseLine text = .ok i := by
  cases i with
  | nop | tick | reset => rw [parseLine, h]; rfl
  | cycle u v a s | cycleTick u v a s =>
    rw [parseLine, h, printLine, wordsOf_append_printOperands (by decide)]
    exact parseOperands_operandWords _ forms u v a s

/-- Such text assembles to a vector of that command. -/
theorem assembleLine_of_stripComment {text : List Char} {forms : OperandForms} {i : Instr}
    (h : stripComment text = printLine forms i) :
    ∃ v, assembleLine text = .ok v ∧ decode v = i :=
  ⟨encode i, by rw [assembleLine, parseLine_of_stripComment h]; rfl, decode_encode i⟩

/-! ### The configuration checks

Each check of a table or a cascade as a statement about its entries; `configure` succeeds exactly when every
check passes. -/

/-- Every check is among those a configuration reports. -/
theorem mem_configError_all (check : ConfigError) : check ∈ ConfigError.all := by
  cases check <;> decide

theorem failures_eq_nil_iff (p : Params) : p.failures = [] ↔ ∀ check, p.passes check = true := by
  simp [Params.failures, mem_configError_all]

/-- Configuration succeeds exactly when no check fails (R133). -/
theorem configure_succeeds_iff (p : Params) :
    (∃ setup, configure p = .ok setup) ↔ ∀ check, p.passes check = true := by
  rw [← failures_eq_nil_iff]
  constructor
  · rintro ⟨setup, h⟩
    obtain ⟨hpasses, -⟩ := configure_ok h
    exact hpasses
  · exact fun h => ⟨setupOf p h, dif_pos h⟩

/-- `wf_phase_range` and `wf_adv_distinct`, block by block (R49). -/
theorem blocks_pass_iff (blocks : List Block) :
    phasesInRange blocks = true ∧ advsDistinct blocks = true ↔
      ∀ b ∈ blocks, b.advA ≠ b.advB ∧ ∀ r ∈ b.rules, r.phase < 24 := by
  simp only [phasesInRange, advsDistinct, List.all_eq_true, decide_eq_true_eq]
  exact ⟨fun ⟨hphases, hadvs⟩ b hb => ⟨hadvs b hb, hphases b hb⟩,
    fun h => ⟨fun b hb => (h b hb).2, fun b hb => (h b hb).1⟩⟩

/-- `st_shape` and `st_range`, row by row (R96). -/
theorem shape_and_range_iff (table : List (List Int)) :
    tableShape table = true ∧ tableRange table = true ↔
      table.length = 62 ∧ ∀ row ∈ table, row.length = 4 ∧ ∀ cell ∈ row, 0 ≤ cell ∧ cell ≤ 127 := by
  simp only [tableShape, tableRange, Bool.and_eq_true, List.all_eq_true, decide_eq_true_eq]
  exact ⟨fun ⟨⟨hlength, hwidth⟩, hcells⟩ => ⟨hlength, fun row hrow =>
      ⟨hwidth row hrow, hcells row hrow⟩⟩,
    fun ⟨hlength, h⟩ => ⟨⟨hlength, fun row hrow => (h row hrow).1⟩, fun row hrow => (h row hrow).2⟩⟩

/-- `st_row0` speaks of the table's first row, if it has one (R96). -/
theorem tableRow0_iff (table : List (List Int)) :
    tableRow0 table = true ↔ ∀ row, table.head? = some row → ∀ cell ∈ row, cell = 0 := by
  cases table <;> simp [tableRow0]

/-- `st_max`: 127 is a cell of some row (R96). -/
theorem tableMax_iff (table : List (List Int)) :
    tableMax table = true ↔ ∃ row ∈ table, (127 : Int) ∈ row := by
  simp only [tableMax, List.any_eq_true, decide_eq_true_eq]
  simp [magMax]

/-- All checks at once, those of one table or of one cascade side by side. That there are six blocks follows
from the check of their names. -/
theorem forall_passes_iff (p : Params) :
    (∀ check, p.passes check = true) ↔
      p.cascade.map Block.name = blockOrder ∧
      (phasesInRange p.cascade = true ∧ advsDistinct p.cascade = true) ∧
      (tableShape p.stepTable = true ∧ tableRange p.stepTable = true) ∧
      tableRow0 p.stepTable = true ∧ tableMax p.stepTable = true ∧
      p.indexTable.length = nPhases ∧ p.missPhase < nPhases ∧ accWidthMin ≤ p.accWidth := by
  constructor
  · exact fun h => ⟨of_decide_eq_true (h .wfBlockOrder), ⟨h .wfPhaseRange, h .wfAdvDistinct⟩,
      ⟨h .stShape, h .stRange⟩, h .stRow0, h .stMax, of_decide_eq_true (h .itShape),
      of_decide_eq_true (h .missPhaseRange), of_decide_eq_true (h .accWidthMin)⟩
  · rintro ⟨horder, ⟨hphases, hadvs⟩, ⟨hshape, hrange⟩, hrow0, hmax, hindex, hmiss, hwidth⟩ check
    cases check with
    | wfSixBlocks =>
      have hlength := congrArg List.length horder
      exact decide_eq_true (List.length_map Block.name ▸ hlength)
    | wfBlockOrder => exact decide_eq_true horder
    | wfPhaseRange => exact hphases
    | wfAdvDistinct => exact hadvs
    | stShape => exact hshape
    | stRange => exact hrange
    | stRow0 => exact hrow0
    | stMax => exact hmax
    | itShape => exact decide_eq_true hindex
    | missPhaseRange => exact decide_eq_true hmiss
    | accWidthMin => exact decide_eq_true hwidth

/-! ### Steps and ports -/

/-- With a vector presented a step runs its command (R40, R42). -/
theorem step_of_inputs_cons {s : State} {v : CommandVector} {later : List CommandVector}
    (h : s.inputs = v :: later) : step s = exec (decode v) { s with inputs := later } := by
  rw [step, h]

/-- After a RESET `det_phase` shows the detector's phase, the held one on a miss under HOLD included. -/
theorem detPhasePort_of_resetSeen {s : State} (hs : s.resetSeen = true) (u v : Byte) :
    s.detPhasePort u v = .ok (detect s.cfg s.regs.currentPhase u v).phase := by
  cases hd : decision s.cfg u v with
  | some p => rw [detPhasePort_of_decision hd, detect_of_decision hd]
  | none =>
    rw [detect_of_miss hd]
    cases hp : s.cfg.missPolicy with
    | defaultPhase => simp [detPhasePort_of_miss_default hd hp, missResult, hp]
    | hold => simp [detPhasePort_of_miss_hold hd hp, State.currentPhasePort, hs, missResult, hp]

/-! ### The statements about encoding -/

/-- Settles O15: a printed line, with or without a comment, is its own text once comments are stripped, and
that text parses to its command. -/
theorem programLineAssemblesToItsCommand : Obligations.ProgramLineAssemblesToItsCommand := by
  intro forms i comment
  have hclean := printLine_no_semicolon forms i
  refine ⟨assembleLine_of_stripComment (stripComment_self _ hclean), ?_⟩
  rw [List.append_assoc]
  exact assembleLine_of_stripComment (stripComment_append _ comment hclean)

/-- Settles O34: a configuration succeeds when every check passes, and each check is written out. -/
theorem configureAcceptsTheWellFormed : Obligations.ConfigureAcceptsTheWellFormed := by
  intro p
  rw [configure_succeeds_iff, forall_passes_iff, blocks_pass_iff, shape_and_range_iff, tableRow0_iff,
    tableMax_iff, and_assoc]
  exact Iff.rfl

/-- Settles O8, the step's equation with a vector presented. -/
theorem stepRunsThePresentedCommand : Obligations.StepRunsThePresentedCommand :=
  fun _ _ _ => step_of_inputs_cons

/-- Settles O12, the rows of the opcode table. -/
theorem everyCmdValueDecodes : Obligations.EveryCmdValueDecodes :=
  fun _ => ⟨decode_of_cmd_nop, decode_of_cmd_cycle, decode_of_cmd_tick, decode_of_cmd_cycleTick,
    decode_of_rst⟩

/-- Settles O13: six fixed words, evaluated. -/
theorem writtenVectorsDecode : Obligations.WrittenVectorsDecode := by
  unfold Obligations.WrittenVectorsDecode
  decide

/-- Settles O14, the round trip through the vector's fields. -/
theorem encodedCommandDecodesBack : Obligations.EncodedCommandDecodesBack := decode_encode

/-- Settles O44: each register port reads its register, and the detector's two ports are its result. -/
theorem portsShowRegistersAndDetection : Obligations.PortsShowRegistersAndDetection :=
  fun s hs => ⟨registerPort_of_resetSeen hs _, registerPort_of_resetSeen hs _,
    registerPort_of_resetSeen hs _, registerPort_of_resetSeen hs _,
    fun u v => ⟨detPhasePort_of_resetSeen hs u v, detMissPort_eq s _ u v⟩⟩

end Sys2Proof.Machine

namespace Sys2Proof.Machine

/-! ### The waveform in exact arithmetic

Each axis as a natural number (R60, R61). The first two axes never wrap; the third wraps at its offset where
the halved samples are small. -/

@[simp] theorem waveBase_u_toNat (u v : Byte) : (waveBase u v).u.toNat = u.toNat / 2 := by
  simp [waveBase, Nat.shiftRight_eq_div_pow]

@[simp] theorem waveBase_v_toNat (u v : Byte) : (waveBase u v).v.toNat = v.toNat / 2 := by
  simp [waveBase, Nat.shiftRight_eq_div_pow]

/-- The two halves sum to at most 254, so neither subtraction borrows. -/
@[simp] theorem waveBase_w_toNat (u v : Byte) :
    (waveBase u v).w.toNat = 255 - u.toNat / 2 - v.toNat / 2 := by
  have hw : (waveBase u v).w = waveSum - (waveBase u v).u - (waveBase u v).v := rfl
  have hsum : waveSum.toNat = 255 := rfl
  have hu := u.isLt
  have hv := v.isLt
  have hfirst : (waveSum - (waveBase u v).u).toNat = 255 - u.toNat / 2 := by
    rw [BitVec.toNat_sub_of_le (BitVec.le_def.mpr (by rw [waveBase_u_toNat, hsum]; omega)),
      waveBase_u_toNat, hsum]
  rw [hw, BitVec.toNat_sub_of_le (BitVec.le_def.mpr (by rw [hfirst, waveBase_v_toNat]; omega)),
    hfirst, waveBase_v_toNat]

/-- The offset is added modulo 256. -/
theorem toNat_add_waveOffset (x : Byte) : (x + waveOffset).toNat = (x.toNat + 64) % 256 :=
  BitVec.toNat_add x waveOffset

@[simp] theorem waveform_u_toNat (u v : Byte) : (waveform u v).u.toNat = u.toNat / 2 + 64 := by
  have hwave : (waveform u v).u.toNat = ((waveBase u v).u.toNat + 64) % 256 := toNat_add_waveOffset _
  rw [hwave, waveBase_u_toNat]
  omega

@[simp] theorem waveform_v_toNat (u v : Byte) : (waveform u v).v.toNat = v.toNat / 2 + 64 := by
  have hwave : (waveform u v).v.toNat = ((waveBase u v).v.toNat + 64) % 256 := toNat_add_waveOffset _
  rw [hwave, waveBase_v_toNat]
  omega

/-- The third axis wraps exactly where the halved samples sum to at most 63 (R61). -/
theorem waveform_w_toNat (u v : Byte) :
    (waveform u v).w.toNat =
      if u.toNat / 2 + v.toNat / 2 ≤ 63 then 63 - u.toNat / 2 - v.toNat / 2
      else 319 - u.toNat / 2 - v.toNat / 2 := by
  have hwave : (waveform u v).w.toNat = ((waveBase u v).w.toNat + 64) % 256 := toNat_add_waveOffset _
  rw [hwave, waveBase_w_toNat]
  split <;> omega

/-- Where the third axis has not wrapped it is above the offset (R61). -/
theorem waveform_w_gt_of_not_wrapped {u v : Byte} (h : ¬ u.toNat / 2 + v.toNat / 2 ≤ 63) :
    64 < (waveform u v).w.toNat := by
  rw [waveform_w_toNat, if_neg h]
  omega

theorem waveform_w_ne_offset (u v : Byte) : (waveform u v).w ≠ 64 := by
  intro h
  have hw : (waveform u v).w.toNat = 64 := congrArg BitVec.toNat h
  rw [waveform_w_toNat] at hw
  split at hw <;> omega

/-! ### The components and the shifted estimates -/

/-- The component never wraps, since `X >> 2` is at least `X >> 4` (R62). -/
theorem highFreq_toNat (x : Byte) : (highFreq x).toNat = x.toNat / 4 - x.toNat / 16 := by
  have h4 : (x >>> 2).toNat = x.toNat / 4 := by simp [Nat.shiftRight_eq_div_pow]
  have h16 : (x >>> 4).toNat = x.toNat / 16 := by simp [Nat.shiftRight_eq_div_pow]
  rw [highFreq, BitVec.toNat_sub_of_le (BitVec.le_def.mpr (by omega)), h4, h16]

theorem highFreq_le (x : Byte) : (highFreq x).toNat ≤ 48 := by
  rw [highFreq_toNat]
  omega

/-- From the offset on, a component is at least 12 (R62). -/
theorem le_highFreq_of_offset_le {x : Byte} (h : 64 ≤ x.toNat) : 12 ≤ (highFreq x).toNat := by
  rw [highFreq_toNat]
  omega

/-- On the first two axes, which are at most 191, a component is at most 36 (R62). -/
theorem highFreq_le_of_le {x : Byte} (h : x.toNat ≤ 191) : (highFreq x).toNat ≤ 36 := by
  rw [highFreq_toNat]
  omega

/-- An axis of at least 48 less any component does not wrap. -/
theorem toNat_sub_highFreq_of_le {x : Byte} (h : 48 ≤ x.toNat) (y : Byte) :
    (x - highFreq y).toNat = x.toNat - (highFreq y).toNat :=
  BitVec.toNat_sub_of_le (BitVec.le_def.mpr ((highFreq_le y).trans h))

/-- Any axis less a component, modulo 256. -/
theorem toNat_sub_highFreq (x y : Byte) :
    (x - highFreq y).toNat = (x.toNat + 256 - (highFreq y).toNat) % 256 := by
  have hz := highFreq_le y
  rw [BitVec.toNat_sub]
  congr 1
  omega

/-! The estimates of the first two axes never wrap (R63, R64). -/

theorem estimates_uDel_toNat (u v : Byte) : (estimates u v).uDel.toNat =
    (waveform u v).u.toNat - (highFreq (waveform u v).v).toNat :=
  toNat_sub_highFreq_of_le (by rw [waveform_u_toNat]; omega) _

theorem estimates_vDel_toNat (u v : Byte) : (estimates u v).vDel.toNat =
    (waveform u v).v.toNat - (highFreq (waveform u v).w).toNat :=
  toNat_sub_highFreq_of_le (by rw [waveform_v_toNat]; omega) _

theorem estimates_uAdv_toNat (u v : Byte) : (estimates u v).uAdv.toNat =
    (waveform u v).u.toNat - (highFreq (waveform u v).w).toNat :=
  toNat_sub_highFreq_of_le (by rw [waveform_u_toNat]; omega) _

theorem estimates_vAdv_toNat (u v : Byte) : (estimates u v).vAdv.toNat =
    (waveform u v).v.toNat - (highFreq (waveform u v).u).toNat :=
  toNat_sub_highFreq_of_le (by rw [waveform_v_toNat]; omega) _

/-- The bounds of an estimate whose companion is one of the first two axes: its component is in 12..36. -/
theorem sub_highFreq_bounds {axis half : Nat} {companion : Byte} (haxis : axis = half + 64)
    (hhalf : half ≤ 127) (hlow : 64 ≤ companion.toNat) (hhigh : companion.toNat ≤ 191) :
    28 ≤ axis - (highFreq companion).toNat ∧ axis - (highFreq companion).toNat ≤ 179 := by
  have hmin := le_highFreq_of_offset_le hlow
  have hmax := highFreq_le_of_le hhigh
  omega

/-- The bounds of an estimate whose companion is the third axis. An axis above 179 has a half above 63, so
the third axis has not wrapped and its component is at least 12. -/
theorem sub_highFreq_w_bounds {u v : Byte} {axis half : Nat} (haxis : axis = half + 64)
    (hhalf : half ≤ 127) (hsum : half ≤ u.toNat / 2 + v.toNat / 2) :
    16 ≤ axis - (highFreq (waveform u v).w).toNat ∧
      axis - (highFreq (waveform u v).w).toNat ≤ 179 := by
  have hmax := highFreq_le (waveform u v).w
  by_cases hwrap : u.toNat / 2 + v.toNat / 2 ≤ 63
  · omega
  · have hmin := le_highFreq_of_offset_le (waveform_w_gt_of_not_wrapped hwrap).le
    omega

/-- A third axis below some component has wrapped: otherwise it is above 64, and a component is at most 48
(R64). -/
theorem wrapped_of_w_lt_highFreq {u v x : Byte} (h : (waveform u v).w.toNat < (highFreq x).toNat) :
    u.toNat / 2 + v.toNat / 2 ≤ 63 := by
  by_contra hwrap
  have hw := waveform_w_gt_of_not_wrapped hwrap
  have hz := highFreq_le x
  omega

/-! ### What the detector depends on -/

/-- The halved samples depend on the samples' halves alone (R60). -/
theorem waveBase_congr {u v u' v' : Byte} (hu : u.toNat / 2 = u'.toNat / 2)
    (hv : v.toNat / 2 = v'.toNat / 2) : waveBase u v = waveBase u' v' := by
  have hshift {x x' : Byte} (h : x.toNat / 2 = x'.toNat / 2) : x >>> 1 = x' >>> 1 :=
    BitVec.eq_of_toNat_eq (by simpa [Nat.shiftRight_eq_div_pow] using h)
  simp [waveBase, hshift hu, hshift hv]

/-- Everything after the halving is computed from the halved samples. -/
theorem estimates_congr {u v u' v' : Byte} (h : waveBase u v = waveBase u' v') :
    estimates u v = estimates u' v' := by
  simp [estimates, components, waveform, h]

/-- The samples enter a detection through their estimates alone. -/
theorem detect_congr {u v u' v' : Byte} (h : estimates u v = estimates u' v') (cfg : Config)
    (cur : Phase) : detect cfg cur u v = detect cfg cur u' v' := by
  simp [detect, decision, h]

/-- Where a rule fires the held phase plays no part (R72). -/
theorem detect_eq_of_decision {cfg : Config} {u v : Byte} {p : Nat} (h : decision cfg u v = some p)
    (cur cur' : Phase) : detect cfg cur u v = detect cfg cur' u v := by
  rw [detect_of_decision h, detect_of_decision h]

/-- Under DEFAULT the held phase plays no part (R72). -/
theorem detect_eq_of_default {cfg : Config} (h : cfg.missPolicy = .defaultPhase) (cur cur' : Phase)
    (u v : Byte) : detect cfg cur u v = detect cfg cur' u v := by
  simp [detect, missResult, h]

/-! ### The decision cascade as a list

Each scan that overwrites the phase it holds returns the last phase of a list, or the phase it started with
where the list is empty (R68, R69). -/

/-- The phases of the rules of one block that fire, in list order. -/
def firedInBlock (e : Estimates) (b : Block) (rules : List CascadeRule) : List Nat :=
  (rules.filter fun r => ruleFires e b r).map CascadeRule.phase

/-- The phases of all rules that fire, in block order and list order (R70). -/
def firedPhases (e : Estimates) (blocks : List Block) : List Nat :=
  blocks.flatMap fun b => firedInBlock e b b.rules

theorem scanRules_eq_getLast? (e : Estimates) (b : Block) (rules : List CascadeRule)
    (held : Option Nat) : scanRules e b rules held = (firedInBlock e b rules).getLast?.or held := by
  induction rules generalizing held with
  | nil => rfl
  | cons r rs ih =>
    have hstep : scanRules e b (r :: rs) held =
        scanRules e b rs (if ruleFires e b r then some r.phase else held) := rfl
    rw [hstep, ih]
    by_cases hr : ruleFires e b r = true
    · simp [firedInBlock, hr, List.getLast?_cons]
    · simp [firedInBlock, hr]

theorem scanBlocks_eq_getLast? (e : Estimates) (blocks : List Block) (held : Option Nat) :
    scanBlocks e blocks held = (firedPhases e blocks).getLast?.or held := by
  induction blocks generalizing held with
  | nil => rfl
  | cons b bs ih =>
    have hstep : scanBlocks e (b :: bs) held = scanBlocks e bs (scanRules e b b.rules held) := rfl
    have hfired : firedPhases e (b :: bs) = firedInBlock e b b.rules ++ firedPhases e bs := rfl
    rw [hstep, ih, scanRules_eq_getLast?, hfired, List.getLast?_append, Option.or_assoc]

/-- The cascade decides the last phase fired (R69). -/
theorem decision_eq_getLast? (cfg : Config) (u v : Byte) :
    decision cfg u v = (firedPhases (estimates u v) cfg.cascade.blocks).getLast? := by
  rw [decision, scanBlocks_eq_getLast?, Option.or_none]

/-- A decided phase fits the port's 5 bits. -/
theorem detect_phase_toNat_of_decision {cfg : Config} {u v : Byte} {p : Nat}
    (h : decision cfg u v = some p) (cur : Phase) : (detect cfg cur u v).phase.toNat = p := by
  have hp : p < 24 := decision_lt h
  rw [detect_of_decision h, BitVec.toNat_ofNat]
  omega

/-- A rule fires when all its atoms hold (R67). -/
theorem ruleFires_iff (e : Estimates) (b : Block) (r : CascadeRule) :
    ruleFires e b r = true ↔ ∀ atom ∈ r.conds, atomHolds e b atom = true :=
  List.all_eq_true

/-! ### The statements about the phase detector -/

/-- Settles O18, axis by axis. -/
theorem waveformIsHalvedAndOffset : Obligations.WaveformIsHalvedAndOffset :=
  fun u v => ⟨waveBase_u_toNat u v, waveBase_v_toNat u v, waveBase_w_toNat u v, waveform_u_toNat u v,
    waveform_v_toNat u v, waveform_w_toNat u v, waveform_w_ne_offset u v⟩

/-- Settles O19: two subtractions are modulo 256, and the four on the first two axes do not wrap. -/
theorem estimatesSubtractTheCompanion : Obligations.EstimatesSubtractTheCompanion := by
  intro u v wave z
  have hz (x : Byte) : (highFreq x).toNat = z x := highFreq_toNat x
  refine ⟨fun x => ⟨hz x, hz x ▸ highFreq_le x⟩, ?_⟩
  simp only [← hz]
  exact ⟨estimates_uDel_toNat u v, toNat_sub_highFreq _ _, estimates_vDel_toNat u v,
    estimates_uAdv_toNat u v, toNat_sub_highFreq _ _, estimates_vAdv_toNat u v⟩

/-- Settles O20: the bounds of a component bound the estimates that subtract it, and a third axis that has
not wrapped is above every component. -/
theorem estimateRanges : Obligations.EstimateRanges := by
  intro u v e
  have hu := waveform_u_toNat u v
  have hv := waveform_v_toNat u v
  have huHalf : u.toNat / 2 ≤ 127 := by omega
  have hvHalf : v.toNat / 2 ≤ 127 := by omega
  refine ⟨?_, ?_, ?_, ?_, wrapped_of_w_lt_highFreq, wrapped_of_w_lt_highFreq⟩
  · rw [estimates_uDel_toNat]
    exact sub_highFreq_bounds hu huHalf (by omega) (by omega)
  · rw [estimates_vDel_toNat]
    exact sub_highFreq_w_bounds hv hvHalf (Nat.le_add_left _ _)
  · rw [estimates_uAdv_toNat]
    exact sub_highFreq_w_bounds hu huHalf (Nat.le_add_right _ _)
  · rw [estimates_vAdv_toNat]
    exact sub_highFreq_bounds hv hvHalf (by omega) (by omega)

/-- Settles O21: the detection is computed from the halves of the samples. -/
theorem sampleBitZeroIsDiscarded : Obligations.SampleBitZeroIsDiscarded :=
  fun cfg current _ _ _ _ hu hv => detect_congr (estimates_congr (waveBase_congr hu hv)) cfg current

/-- Settles O22, atom by atom: `compareBytes` is the comparison of the operands as numbers. -/
theorem ruleFiresWhenAllAtomsHold : Obligations.RuleFiresWhenAllAtomsHold := by
  intro e b r del adv compare
  have hcompare (rel : Rel) (x y : Byte) :
      compareBytes rel x y = true ↔ compare rel x.toNat y.toNat := by
    cases rel with
    | lt | le | gt | ge | eq | ne => exact decide_eq_true_iff
  have hdel : (e.del b.del).toNat = del := by
    cases hb : b.del with
    | uDel | vDel | wDel => simp only [del, hb]; rfl
  have hadv (sel : AdvSel) : (e.adv sel).toNat = adv sel := by
    cases sel with
    | uAdv | vAdv | wAdv => rfl
  rw [ruleFires_iff]
  refine forall₂_congr fun atom _ => ?_
  cases atom with
  | delVsNeutral rel => exact hdel ▸ hcompare rel (e.del b.del) neutral
  | advVsAdv rel => exact hadv b.advA ▸ hadv b.advB ▸ hcompare rel (e.adv b.advA) (e.adv b.advB)

/-- Settles O23: the cascade's scan decides the last of the fired phases, and nothing where none fired. -/
theorem lastFiringRuleWins : Obligations.LastFiringRuleWins := by
  intro cfg current u v fired det
  have hdecision : decision cfg u v = fired.getLast? := decision_eq_getLast? cfg u v
  constructor
  · intro p hp
    have hsome : decision cfg u v = some p := hdecision.trans hp
    exact ⟨detect_phase_toNat_of_decision hsome current,
      congrArg Detection.miss (detect_of_decision hsome current)⟩
  · intro hempty
    have hnone : decision cfg u v = none := by rw [hdecision, hempty, List.getLast?_nil]
    have hdet : det = ⟨missResult cfg current, true⟩ := detect_of_miss hnone current
    exact ⟨congrArg Detection.miss hdet, congrArg Detection.phase hdet⟩

/-- Settles O24: the rules' phases are in range by `wf_phase_range`, and so is what a miss reports. -/
theorem detectedPhaseInRange : Obligations.DetectedPhaseInRange :=
  fun cfg _ u v hcurrent => detect_phase_lt cfg hcurrent u v

/-- Settles O25: whether the cascade decides does not depend on the held phase, nor does what it decides. -/
theorem detectorIsPure : Obligations.DetectorIsPure := by
  intro cfg current current' u v
  refine ⟨?_, fun hpolicy => detect_eq_of_default hpolicy current current' u v, fun hhit => ?_⟩
  · rw [Bool.eq_iff_iff, detect_miss_iff, detect_miss_iff]
  · cases hd : decision cfg u v with
    | some p => exact detect_eq_of_decision hd current current'
    | none => exact absurd ((detect_miss_iff cfg current u v).mpr hd) (by simp [hhit])

end Sys2Proof.Machine

namespace Sys2Proof.Machine

/-! ### The forward distance

Between phases in 0..23 the raw difference, made non-negative by adding 24, is the difference modulo 24
(R80). -/

/-- The raw difference as an integer modulo 24; adding 24 once is enough since both phases are below it. -/
theorem rawDiff_eq_emod {det cur : Phase} (hdet : det.toNat < 24) (hcur : cur.toNat < 24) :
    rawDiff det cur = ((det.toNat : Int) - cur.toNat) % 24 := by
  have hraw : rawDiff det cur = if (det.toNat : Int) - cur.toNat < 0
      then (det.toNat : Int) - cur.toNat + 24 else (det.toNat : Int) - cur.toNat := rfl
  rw [hraw]
  split <;> omega

/-- A non-negative distance contributes itself below 12 and 0 from 12 on (R81, R82). -/
theorem contribution_of_rawDiff_eq {det cur : Phase} {d : Nat} (h : rawDiff det cur = d) :
    contribution det cur = if d ≥ 12 then 0 else d := by
  have hcontrib : contribution det cur =
      if rawDiff det cur ≥ 12 then 0 else (rawDiff det cur).toNat := rfl
  rw [hcontrib, h, Int.toNat_natCast]
  exact if_congr Int.ofNat_le rfl rfl

/-! ### The accumulator below the wrap

A CYCLE adds its contribution to the accumulator and to the tally alike, and at most 11 to each, so the two
stay equal while there is room for 11 more a cycle (R83, R86). -/

/-- After a RESET a CYCLE completes and adds its contribution to the tally (R111). -/
theorem tally_command_cycle {tally : Tally} (hseen : tally.state.resetSeen = true) (u v a n : Byte) :
    tally.command (.cycle u v a n) =
      some { state := tally.state.withRegs (regsAfter (.cycle u v a n) tally.state)
             snapshots := tally.snapshots
             contributions := tally.contributions + cycleContribution tally.state u v } := by
  simp [Tally.command, exec_of_resetSeen hseen, sampledBy, contributedBy, Instr.samples?,
    Instr.takesSample]

/-- With room for a greatest contribution a CYCLE adds its own exactly (R83). -/
theorem regsAfter_cycle_phaseAcc {s : State} (hroom : s.regs.phaseAcc + 11 < 2 ^ s.cfg.accWidth)
    (u v a n : Byte) :
    (regsAfter (.cycle u v a n) s).phaseAcc = s.regs.phaseAcc + cycleContribution s u v := by
  have hle : cycleContribution s u v ≤ 11 := contribution_le _ _
  exact accAdd_of_lt (by omega)

/-- From an exact accumulator with room for 11 more, a CYCLE completes and keeps it exact. -/
theorem tally_command_cycle_exact {tally : Tally} (hseen : tally.state.resetSeen = true)
    (hexact : tally.state.regs.phaseAcc = tally.contributions)
    (hroom : tally.state.regs.phaseAcc + 11 < 2 ^ tally.state.cfg.accWidth) (u v a n : Byte) :
    ∃ next, tally.command (.cycle u v a n) = some next ∧ next.state.resetSeen = true ∧
      next.state.cfg = tally.state.cfg ∧ next.state.regs.phaseAcc = next.contributions ∧
      next.state.regs.phaseAcc ≤ tally.state.regs.phaseAcc + 11 := by
  have hadd := regsAfter_cycle_phaseAcc hroom u v a n
  have hle : cycleContribution tally.state u v ≤ 11 := contribution_le _ _
  exact ⟨_, tally_command_cycle hseen u v a n, hseen, rfl, hexact ▸ hadd,
    hadd.trans_le (Nat.add_le_add_left hle _)⟩

/-- From an exact accumulator with room for 11 a cycle, CYCLEs complete and keep it exact (R86). -/
theorem tally_run_cycles_exact {cycles : List Instr} {tally : Tally}
    (hcycles : ∀ i ∈ cycles, ∃ u v a n, i = .cycle u v a n) (hseen : tally.state.resetSeen = true)
    (hexact : tally.state.regs.phaseAcc = tally.contributions)
    (hroom : tally.state.regs.phaseAcc + 11 * cycles.length < 2 ^ tally.state.cfg.accWidth) :
    ∃ after, Tally.run cycles tally = some after ∧ after.state.resetSeen = true ∧
      after.state.regs.phaseAcc = after.contributions ∧
      after.state.regs.phaseAcc ≤ tally.state.regs.phaseAcc + 11 * cycles.length := by
  induction cycles generalizing tally with
  | nil => exact ⟨tally, rfl, hseen, hexact, Nat.le_add_right _ _⟩
  | cons i later ih =>
    obtain ⟨⟨u, v, a, n, rfl⟩, hlater⟩ := List.forall_mem_cons.mp hcycles
    rw [List.length_cons] at hroom ⊢
    obtain ⟨next, hcommand, hseenNext, hcfg, hexactNext, hstep⟩ :=
      tally_command_cycle_exact hseen hexact (by omega) u v a n
    obtain ⟨after, hrun, hseenAfter, hexactAfter, hbound⟩ :=
      ih hlater hseenNext hexactNext (by rw [hcfg]; omega)
    refine ⟨after, ?_, hseenAfter, hexactAfter, by omega⟩
    rw [Tally.run, hcommand, Option.bind_some, hrun]

/-! ### The statements about the phase tracker -/

/-- Settles O28: CYCLEs keep a cleared accumulator exact below the wrap, and TICK samples what it holds. -/
theorem accumulatorIsExactBelowTheWrap : Obligations.AccumulatorIsExactBelowTheWrap := by
  intro s cycles hseen hcleared hcycles hroom
  obtain ⟨after, hrun, hseenAfter, hexact, hbound⟩ :=
    tally_run_cycles_exact (tally := ⟨s, 0, 0⟩) hcycles hseen hcleared (by simpa [hcleared] using hroom)
  exact ⟨after, _, hrun, hexact, by simpa [hcleared] using hbound, exec_of_resetSeen hseenAfter .tick,
    hexact⟩

/-- Settles O26: the forward distance modulo 24, also as a natural number, and its contribution. -/
theorem forwardDistanceIsModulo24 : Obligations.ForwardDistanceIsModulo24 := by
  intro det current hdet hcurrent
  have hraw := rawDiff_eq_emod hdet hcurrent
  exact ⟨hraw, contribution_of_rawDiff_eq (hraw.trans (by omega)), contribution_le det current⟩

end Sys2Proof.Machine

namespace Sys2Proof.Machine

/-! ### The synthesizer's outputs

An output depends on the clamped operands and the two ROMs (R91, R95), and on row 0 of the step ROM it is
neutral (R96). -/

/-- A descriptor's column as a number: the two low bits of its four (R46). -/
theorem unpackDescriptor_col_toNat (d : DescriptorBits) : (unpackDescriptor d).col.toNat = d.toNat % 4 := by
  simp [unpackDescriptor]

/-- Row 0 of the step ROM gives every descriptor the magnitude 0, forced or not. -/
@[simp] theorem magnitude_row0 (rom : StepRom) (d : Descriptor) : magnitude rom 0 d = 0 := by
  simp [magnitude, stepRomRead_row0]

/-- An output from row 0 is neutral, negated or not. -/
@[simp] theorem dutyOf_row0 (rom : StepRom) (d : Descriptor) : dutyOf rom 0 d = 128 := by
  simp [dutyOf, dutyCenter]

/-- Amplitude 0 selects row 0. -/
theorem clampAmplitude_zero : clampAmplitude 0 = 0 := rfl

/-- From 61 on every amplitude selects the last row (R91). -/
theorem clampAmplitude_of_ge {a : Byte} (h : 61 ≤ a.toNat) : clampAmplitude a = clampAmplitude 61 :=
  Fin.ext (Nat.min_eq_right h)

/-- From 23 on every step selects the last word (R91). -/
theorem clampStep_of_ge {n : Byte} (h : 23 ≤ n.toNat) : clampStep n = clampStep 23 :=
  Fin.ext (Nat.min_eq_right h)

/-- The synthesizer reads nothing of its operands but the row and the word they select. -/
theorem synth_congr {a a' n n' : Byte} (ha : clampAmplitude a = clampAmplitude a')
    (hn : clampStep n = clampStep n') (stepRom : StepRom) (indexRom : IndexRom) :
    synth stepRom indexRom a n = synth stepRom indexRom a' n' := by
  simp only [synth, ha, hn]

/-- The flagged pairs are those in range of the operands whose duty sum exceeds the tolerance (R99). -/
theorem mem_sumToNeutralFlags (setup : Setup) (a n : Nat) :
    (a, n) ∈ sumToNeutralFlags setup ↔ a ≤ ampMax ∧ n ≤ stepMax ∧
      (setup.cfg.sumTol : Int) < |dutySum setup (BitVec.ofNat 8 a) (BitVec.ofNat 8 n)| := by
  have hstep : n < nPhases ↔ n ≤ stepMax := Nat.lt_succ_iff
  rw [← Int.natCast_natAbs, Int.ofNat_lt]
  simp [sumToNeutralFlags, hstep]

/-! ### The statements about the synthesizer -/

/-- Settles O29: the magnitude fits below the centre, so neither the sum nor the difference wraps. -/
theorem dutyIsCenterPlusOrMinusMagnitude : Obligations.DutyIsCenterPlusOrMinusMagnitude := by
  intro rom a d m
  obtain ⟨hcell, hle⟩ := magnitude_toNat rom a d
  have hm : (magnitude rom a d).toNat = m := hcell
  have hduty := dutyOf_toNat rom a d
  rw [hm] at hle hduty
  refine ⟨hle, ?_, dutyOf_pos rom a d, Nat.le_of_lt_succ (dutyOf rom a d).isLt⟩
  rw [hduty]
  split <;> omega

/-- Settles O31: amplitude 0 reads row 0, from which every output is neutral. -/
theorem zeroAmplitudeIsNeutral : Obligations.ZeroAmplitudeIsNeutral := by
  intro stepRom indexRom n
  simp only [synth, clampAmplitude_zero, dutyOf_row0]

/-- Settles O36, from membership in the reported list. -/
theorem sumToNeutralIsFlagged : Obligations.SumToNeutralIsFlagged :=
  mem_sumToNeutralFlags

/-- Settles O30: the word's three nibbles, each unpacked, and the fields of a descriptor. -/
theorem eachOutputHasItsDescriptor : Obligations.EachOutputHasItsDescriptor :=
  ⟨fun _ _ _ _ => rfl, fun d => ⟨unpackDescriptor_col_toNat d, rfl, rfl⟩⟩

/-- Settles O32: operands beyond the last row or word select it. -/
theorem commandedValuesAreClamped : Obligations.CommandedValuesAreClamped :=
  ⟨fun _ => rfl, fun _ => rfl, fun stepRom indexRom _ _ =>
    ⟨fun ha => synth_congr (clampAmplitude_of_ge ha) rfl stepRom indexRom,
      fun hn => synth_congr rfl (clampStep_of_ge hn) stepRom indexRom⟩⟩

/-- Settles O33: either command writes the synthesizer's triple, which takes the ROMs and the two operands. -/
theorem dutyIgnoresTheDetector : Obligations.DutyIgnoresTheDetector := by
  intro s s' u v u' v' a n hs hs' hstep hindex
  have hsynth : synth s.stepRom s.indexRom a n = synth s'.stepRom s'.indexRom a n := by
    rw [hstep, hindex]
  exact ⟨_, _, exec_of_resetSeen hs _, exec_of_resetSeen hs' _, congrArg Triple.u hsynth,
    congrArg Triple.v hsynth, congrArg Triple.w hsynth⟩

end Sys2Proof.Machine

namespace Sys2Proof.Machine

/-! ### The tally of contributions and samples

A command takes from the accumulator what it samples and adds what its cycle contributes, modulo
`2^ACC_WIDTH` (R103). `Tally.Balanced` is by definition a `Nat.ModEq`, and is reasoned about as one. -/

/-- Adding to the accumulator loses multiples of `2^ACC_WIDTH` alone (R83). -/
theorem accAdd_modEq (w a b : Nat) : accAdd w a b ≡ a + b [MOD 2 ^ w] := Nat.mod_modEq _ _

/-- Under either order, what CYCLE_TICK samples and what it leaves are together the old sum and this
cycle's contribution (R113). -/
theorem tickSnapshot_add_tickRemainder_modEq (cfg : Config) (acc contrib : Nat) :
    tickSnapshot cfg acc contrib + tickRemainder cfg contrib ≡ acc + contrib [MOD 2 ^ cfg.accWidth] := by
  unfold tickSnapshot tickRemainder
  cases cfg.tickOrder with
  | tickFirst => rfl
  | updateFirst => exact accAdd_modEq _ _ _

/-- A completed command conserves: what it sampled and what it left in the accumulator are together the old
accumulator and its contribution (R103). -/
theorem exec_next_conserves {i : Instr} {s t : State} (hreset : i ≠ .reset) (h : exec i s = .next t) :
    sampledBy i t + t.regs.phaseAcc ≡ s.regs.phaseAcc + contributedBy i s [MOD 2 ^ s.cfg.accWidth] := by
  rw [sampledBy, exec_next_regs h]
  cases i with
  | nop => simp [regsAfter, contributedBy, Instr.samples?, Instr.takesSample, Nat.ModEq]
  | cycle u v a n =>
    simpa [regsAfter, contributedBy, Instr.samples?, Instr.takesSample] using accAdd_modEq _ _ _
  | tick => rfl
  | cycleTick u v a n => exact tickSnapshot_add_tickRemainder_modEq _ _ _
  | reset => exact absurd rfl hreset

/-- What the tally becomes when its command completes. -/
theorem tally_command_of_exec_next {i : Instr} {tally : Tally} {t : State}
    (h : exec i tally.state = .next t) :
    tally.command i = some (if i = .reset then ⟨t, 0, 0⟩ else
      ⟨t, tally.snapshots + sampledBy i t, tally.contributions + contributedBy i tally.state⟩) := by
  rw [Tally.command, h]

/-- A tally advances only when its command completes. -/
theorem exec_next_of_tally_command {i : Instr} {tally after : Tally} (h : tally.command i = some after) :
    ∃ t, exec i tally.state = .next t := by
  unfold Tally.command at h
  split at h
  · exact ⟨_, ‹_›⟩
  · cases h
  · cases h

/-- RESET completes and starts both sums anew. -/
theorem tally_command_reset (tally : Tally) :
    tally.command .reset = some ⟨tally.state.afterReset, 0, 0⟩ := rfl

/-- The sum equation holds right after a RESET, where all three sums are 0. -/
theorem balanced_afterReset (s : State) : Tally.Balanced ⟨s.afterReset, 0, 0⟩ := rfl

/-- A completed command other than RESET adds what it sampled to the one sum and what it contributed to the
other. -/
theorem Tally.Balanced.of_exec_next {i : Instr} {tally : Tally} {t : State} (hbalanced : tally.Balanced)
    (hreset : i ≠ .reset) (h : exec i tally.state = .next t) :
    Tally.Balanced
      ⟨t, tally.snapshots + sampledBy i t, tally.contributions + contributedBy i tally.state⟩ := by
  have hconserves := exec_next_conserves hreset h
  have hcfg : t.cfg = tally.state.cfg := by rw [exec_next_eq h]; rfl
  unfold Tally.Balanced
  rw [hcfg]
  calc tally.snapshots + sampledBy i t + t.regs.phaseAcc
      = tally.snapshots + (sampledBy i t + t.regs.phaseAcc) := Nat.add_assoc _ _ _
    _ ≡ tally.snapshots + (tally.state.regs.phaseAcc + contributedBy i tally.state)
        [MOD 2 ^ tally.state.cfg.accWidth] := hconserves.add_left _
    _ = tally.snapshots + tally.state.regs.phaseAcc + contributedBy i tally.state :=
        (Nat.add_assoc _ _ _).symm
    _ ≡ tally.contributions + contributedBy i tally.state [MOD 2 ^ tally.state.cfg.accWidth] :=
        Nat.ModEq.add_right _ hbalanced

/-- Every command that completes keeps the sum equation (R103). -/
theorem tally_command_keeps_balanced {i : Instr} {tally after : Tally} (hbalanced : tally.Balanced)
    (h : tally.command i = some after) : after.Balanced := by
  by_cases hreset : i = .reset
  · subst hreset
    obtain rfl := Option.some.inj ((tally_command_reset tally).symm.trans h)
    exact balanced_afterReset _
  · obtain ⟨t, hexec⟩ := exec_next_of_tally_command h
    rw [tally_command_of_exec_next hexec, if_neg hreset] at h
    obtain rfl := Option.some.inj h
    exact hbalanced.of_exec_next hreset hexec

/-- After a RESET every command advances the tally, to the state in which it leaves its registers (R120). -/
theorem tally_command_of_resetSeen {tally : Tally} (hseen : tally.state.resetSeen = true) (i : Instr) :
    ∃ next, tally.command i = some next ∧
      next.state = tally.state.withRegs (regsAfter i tally.state) := by
  refine ⟨_, tally_command_of_exec_next (exec_of_resetSeen hseen i), ?_⟩
  split <;> rfl

/-- After a RESET every list of commands completes on the tally, and its state is the run's. -/
theorem tally_run_of_resetSeen (commands : List Instr) {tally : Tally}
    (hseen : tally.state.resetSeen = true) :
    ∃ after, Tally.run commands tally = some after ∧
      after.state = tally.state.afterCommands commands := by
  induction commands generalizing tally with
  | nil => exact ⟨tally, rfl, rfl⟩
  | cons i later ih =>
    obtain ⟨next, hcommand, hstate⟩ := tally_command_of_resetSeen hseen i
    obtain ⟨after, hrun, hafter⟩ := ih (tally := next) (by rw [hstate]; exact hseen)
    exact ⟨after, by rw [Tally.run, hcommand, Option.bind_some, hrun],
      by rw [hafter, hstate, afterCommands_cons]⟩

/-- The sum equation holds along every run that completes (R103). -/
theorem tally_run_keeps_balanced {commands : List Instr} {tally after : Tally}
    (hbalanced : tally.Balanced) (h : Tally.run commands tally = some after) : after.Balanced := by
  induction commands generalizing tally with
  | nil =>
    obtain rfl := Option.some.inj h
    exact hbalanced
  | cons i later ih =>
    obtain ⟨next, hcommand, hrun⟩ := Option.bind_eq_some_iff.mp h
    exact ih (tally_command_keeps_balanced hbalanced hcommand) hrun

/-! ### The statements about the velocity sampler -/

/-- Settles O40: each command conserves, and RESET clears all three sums. -/
theorem everyCommandKeepsTheTallyBalanced : Obligations.EveryCommandKeepsTheTallyBalanced :=
  ⟨fun _ _ _ => tally_command_keeps_balanced,
    fun tally => ⟨_, tally_command_reset tally, balanced_afterReset tally.state⟩⟩

/-- Settles O39: the RESET balances the tally, and the commands after it complete and keep it balanced. -/
theorem contributionsAreConserved : Obligations.ContributionsAreConserved := by
  intro s commands
  obtain ⟨after, hrun, hstate⟩ := tally_run_of_resetSeen commands (tally := ⟨s.afterReset, 0, 0⟩) rfl
  have hbalanced : after.Balanced := tally_run_keeps_balanced (balanced_afterReset s) hrun
  have hcfg : after.state.cfg = s.cfg := by rw [hstate, afterCommands_cfg, afterReset_cfg]
  exact ⟨after, hrun, hcfg ▸ hbalanced⟩

end Sys2Proof.Machine

namespace Sys2Proof.Machine

/-! ### What each command leaves, written out

The registers a command leaves are `regsAfter`; here its contribution and the two orders of CYCLE_TICK take the
form the rules give them. -/

/-- A presented vector runs the command it decodes to (R40, R42). -/
theorem step_of_decode {s : State} {v : CommandVector} {later : List CommandVector} {i : Instr}
    (h : s.inputs = v :: later) (hdecode : decode v = i) :
    step s = exec i { s with inputs := later } := by
  rw [step_of_inputs_cons h, hdecode]

/-- The contribution as one conversion to a natural number: a distance of 12 or more counts 0 (R82), and so
does a negative one (log entry 13). -/
theorem contribution_eq_toNat (det cur : Phase) :
    contribution det cur = (if rawDiff det cur ≥ 12 then 0 else rawDiff det cur).toNat :=
  (apply_ite Int.toNat (rawDiff det cur ≥ 12) 0 (rawDiff det cur)).symm

/-- TICK_FIRST samples the old sum, the other order the new one (R113). -/
theorem tickSnapshot_eq_ite (cfg : Config) (acc contrib : Nat) :
    tickSnapshot cfg acc contrib =
      if cfg.tickOrder = .tickFirst then acc else accAdd cfg.accWidth acc contrib := by
  unfold tickSnapshot
  cases cfg.tickOrder with
  | tickFirst => rfl
  | updateFirst => rfl

/-- TICK_FIRST leaves the contribution in the accumulator, the other order nothing (R113). -/
theorem tickRemainder_eq_ite (cfg : Config) (contrib : Nat) :
    tickRemainder cfg contrib = if cfg.tickOrder = .tickFirst then contrib else 0 := by
  unfold tickRemainder
  cases cfg.tickOrder with
  | tickFirst => rfl
  | updateFirst => rfl

/-- Where the cycle contributes 0 CYCLE_TICK samples the accumulator and clears it, under either order
(R113). -/
theorem regsAfter_cycleTick_of_no_contribution {s : State} {u v : Byte}
    (hacc : s.regs.phaseAcc < 2 ^ s.cfg.accWidth) (h : cycleContribution s u v = 0) (a n : Byte) :
    regsAfter (.cycleTick u v a n) s =
      { controlRegs s u v a n with velocitySnapshot := s.regs.phaseAcc, phaseAcc := 0 } := by
  rw [regsAfter, h, tickSnapshot_eq_ite, tickRemainder_eq_ite, accAdd_of_lt (b := 0) hacc, Nat.add_zero,
    ite_self, ite_self]

/-- The same machine under another tick order. -/
def State.withTickOrder (s : State) (order : TickOrder) : State :=
  { s with cfg := { s.cfg with tickOrder := order } }

/-- A control cycle does not read the tick order. -/
theorem controlRegs_withTickOrder (s : State) (order : TickOrder) (u v a n : Byte) :
    controlRegs (s.withTickOrder order) u v a n = controlRegs s u v a n := by
  simp only [controlRegs, State.withTickOrder, detect_with_tickOrder]

/-- Its contribution does not depend on the tick order. -/
theorem cycleContribution_withTickOrder (s : State) (order : TickOrder) (u v : Byte) :
    cycleContribution (s.withTickOrder order) u v = cycleContribution s u v := by
  simp only [cycleContribution, State.withTickOrder, detect_with_tickOrder]

/-- Where the cycle contributes 0 the tick order makes no difference to the registers CYCLE_TICK leaves. -/
theorem regsAfter_cycleTick_withTickOrder {s : State} {u v : Byte}
    (hacc : s.regs.phaseAcc < 2 ^ s.cfg.accWidth) (hnone : cycleContribution s u v = 0)
    (order : TickOrder) (a n : Byte) :
    regsAfter (.cycleTick u v a n) (s.withTickOrder order) = regsAfter (.cycleTick u v a n) s := by
  have hnone' : cycleContribution (s.withTickOrder order) u v = 0 :=
    (cycleContribution_withTickOrder s order u v).trans hnone
  rw [regsAfter_cycleTick_of_no_contribution hacc hnone,
    regsAfter_cycleTick_of_no_contribution (s := s.withTickOrder order) hacc hnone',
    controlRegs_withTickOrder]
  rfl

/-! ### The statements about the commands -/

/-- Settles O1: NOP answers the state it runs in, and no detector port reads the presented vectors. -/
theorem nopChangesNothing : Obligations.NopChangesNothing :=
  ⟨fun _ => rfl, fun _ _ _ hinputs hcmd => ⟨step_of_decode hinputs (decode_of_cmd_nop hcmd),
    fun _ _ => ⟨detPhasePort_congr rfl rfl _ _, detMissPort_congr rfl _ _⟩⟩⟩

/-- Settles O2: CYCLE's registers with the contribution written out. -/
theorem cycleRunsOneControlCycle : Obligations.CycleRunsOneControlCycle := by
  refine ⟨fun s u v a n hseen => ?_, fun _ _ _ hinputs hcmd =>
    step_of_decode hinputs (decode_of_cmd_cycle hcmd)⟩
  rw [exec_of_resetSeen hseen, regsAfter, cycleContribution, contribution_eq_toNat]
  rfl

/-- Settles O3: TICK's registers are those stated. -/
theorem tickSamplesAndClears : Obligations.TickSamplesAndClears :=
  ⟨fun _ hseen => exec_of_resetSeen hseen .tick, fun _ _ _ hinputs hcmd =>
    step_of_decode hinputs (decode_of_cmd_tick hcmd)⟩

/-- Settles O4: CYCLE_TICK's registers with the contribution and the two orders written out. -/
theorem cycleTickRunsBothAtOneEdge : Obligations.CycleTickRunsBothAtOneEdge := by
  refine ⟨fun s u v a n hseen => ?_, fun _ _ _ hinputs hcmd =>
    step_of_decode hinputs (decode_of_cmd_cycleTick hcmd), rfl⟩
  rw [exec_of_resetSeen hseen, regsAfter, tickSnapshot_eq_ite, tickRemainder_eq_ite, cycleContribution,
    contribution_eq_toNat]
  rfl

/-- Settles O43: with nothing contributed both orders sample the accumulator and clear it. -/
theorem tickOrdersAgreeWithoutContribution : Obligations.TickOrdersAgreeWithoutContribution := by
  rintro s _ u v a n hseen hinv rfl - hnone
  have hacc : s.regs.phaseAcc < 2 ^ s.cfg.accWidth := (hinv hseen).acc
  exact ⟨_, _, exec_of_resetSeen hseen _,
    exec_of_resetSeen (s := s.withTickOrder .updateFirst) hseen _,
    (regsAfter_cycleTick_withTickOrder hacc hnone .updateFirst a n).symm⟩

end Sys2Proof.Machine

namespace Sys2Proof.Machine

/-! ### The statement about stopping -/

/-- Commands that complete leave the reset bit as it was. -/
@[simp] theorem afterCommands_resetSeen (commands : List Instr) (s : State) :
    (s.afterCommands commands).resetSeen = s.resetSeen := by
  induction commands generalizing s with
  | nil => rfl
  | cons i later ih => exact ih _

/-- Settles O11: after a RESET the run is `afterCommands`, which keeps the reset bit. -/
theorem noCommandStopsTheCoreAfterReset : Obligations.NoCommandStopsTheCoreAfterReset :=
  fun commands s hseen => ⟨s.afterCommands commands, runCommands_of_resetSeen commands hseen,
    (afterCommands_resetSeen commands s).trans hseen⟩

end Sys2Proof.Machine

namespace Sys2Proof.Machine

/-! ### The first control cycle after RESET

RESET clears the accumulator and the snapshot, so a TICK after it writes the values already there. NOPs and
TICKs thus leave the machine as RESET left it, and the first control cycle starts there (R134). -/

/-- Right after RESET neither a NOP nor a TICK changes anything. -/
theorem afterReset_withRegs_of_nop_or_tick {i : Instr} (h : i = .nop ∨ i = .tick) (s : State) :
    s.afterReset.withRegs (regsAfter i s.afterReset) = s.afterReset := by
  rcases h with rfl | rfl
  · rfl
  · rfl

/-- NOPs and TICKs keep the machine RESET left. -/
theorem afterReset_afterCommands_of_nops_and_ticks {between : List Instr}
    (h : ∀ i ∈ between, i = .nop ∨ i = .tick) (s : State) :
    s.afterReset.afterCommands between = s.afterReset := by
  induction between with
  | nil => rfl
  | cons i later ih =>
    obtain ⟨hi, hlater⟩ := List.forall_mem_cons.mp h
    rw [afterCommands_cons, afterReset_withRegs_of_nop_or_tick hi, ih hlater]

/-- A command after RESET, NOPs and TICKs runs on the machine RESET left. -/
theorem runCommands_reset_nops_and_ticks {between : List Instr}
    (h : ∀ i ∈ between, i = .nop ∨ i = .tick) (i : Instr) (s : State) :
    runCommands (.reset :: (between ++ [i])) s =
      .next (s.afterReset.withRegs (regsAfter i s.afterReset)) := by
  rw [runCommands_reset_cons, afterCommands_append, afterReset_afterCommands_of_nops_and_ticks h,
    afterCommands_cons, afterCommands_nil]

/-- From a held phase of 0 the forward distance is the detected phase (R80). -/
theorem rawDiff_zero (det : Phase) : rawDiff det 0 = det.toNat := by
  have hraw : rawDiff det 0 = if (det.toNat : Int) - 0 < 0
      then (det.toNat : Int) - 0 + 24 else (det.toNat : Int) - 0 := rfl
  rw [hraw, Int.sub_zero, if_neg (Int.natCast_nonneg _).not_gt]

/-- From a held phase of 0 a phase of at most 11 contributes itself, a greater one 0 (R82). -/
theorem contribution_zero (det : Phase) :
    contribution det 0 = if det.toNat ≤ 11 then det.toNat else 0 := by
  rw [contribution_of_rawDiff_eq (rawDiff_zero det), ← ite_not]
  exact if_congr (by omega) rfl rfl

/-- The contribution of the first control cycle after RESET. -/
theorem cycleContribution_afterReset (s : State) (u v : Byte) :
    cycleContribution s.afterReset u v =
      if (detect s.cfg 0 u v).phase.toNat ≤ 11 then (detect s.cfg 0 u v).phase.toNat else 0 :=
  contribution_zero _

/-- On the cleared accumulator a contribution is the whole sum (R83). -/
theorem accAdd_zero_contribution (s : State) (u v : Byte) :
    accAdd s.cfg.accWidth 0 (cycleContribution s u v) = cycleContribution s u v := by
  have hfits : cycleContribution s u v < 2 ^ s.cfg.accWidth := contribution_lt _ _ _
  rw [accAdd_of_lt (by rwa [Nat.zero_add]), Nat.zero_add]

/-- CYCLE right after RESET leaves its contribution in the accumulator. -/
theorem regsAfter_cycle_afterReset_phaseAcc (s : State) (u v a n : Byte) :
    (regsAfter (.cycle u v a n) s.afterReset).phaseAcc = cycleContribution s.afterReset u v :=
  accAdd_zero_contribution s.afterReset u v

/-- CYCLE_TICK right after RESET leaves its contribution in the accumulator under TICK_FIRST. -/
theorem regsAfter_cycleTick_afterReset_phaseAcc (s : State) (u v a n : Byte) :
    (regsAfter (.cycleTick u v a n) s.afterReset).phaseAcc =
      if s.cfg.tickOrder = .tickFirst then cycleContribution s.afterReset u v else 0 :=
  tickRemainder_eq_ite _ _

/-- CYCLE_TICK right after RESET samples 0 under TICK_FIRST, its contribution under the other order. -/
theorem regsAfter_cycleTick_afterReset_velocitySnapshot (s : State) (u v a n : Byte) :
    (regsAfter (.cycleTick u v a n) s.afterReset).velocitySnapshot =
      if s.cfg.tickOrder = .tickFirst then 0 else cycleContribution s.afterReset u v :=
  (tickSnapshot_eq_ite _ _ _).trans
    (congrArg (ite _ 0) (accAdd_zero_contribution s.afterReset u v))

/-! ### The statements about RESET -/

/-- Settles O27: the cycle runs on the machine RESET left, whose sums are cleared and whose phase is 0. -/
theorem firstCycleAfterReset : Obligations.FirstCycleAfterReset := by
  intro s between u v a n hbetween det added
  have hadded : cycleContribution s.afterReset u v = added := cycleContribution_afterReset s u v
  have hacc := regsAfter_cycleTick_afterReset_phaseAcc s u v a n
  have hsnapshot := regsAfter_cycleTick_afterReset_velocitySnapshot s u v a n
  rw [hadded] at hacc hsnapshot
  refine ⟨⟨_, runCommands_reset_nops_and_ticks hbetween _ s, rfl, ?_⟩,
    ⟨_, runCommands_reset_nops_and_ticks hbetween _ s, rfl, fun horder => ?_, fun horder => ?_⟩⟩
  · exact (regsAfter_cycle_afterReset_phaseAcc s u v a n).trans hadded
  · exact ⟨hacc.trans (if_pos horder), hsnapshot.trans (if_pos horder)⟩
  · have hnot : s.cfg.tickOrder ≠ .tickFirst := by simp [horder]
    exact ⟨hacc.trans (if_neg hnot), hsnapshot.trans (if_neg hnot)⟩

/-- Settles O5: the state after RESET holds the values stated, and bit 34 decodes to RESET. -/
theorem resetLoadsItsValues : Obligations.ResetLoadsItsValues :=
  ⟨exec_reset, fun _ _ _ hinputs hrst => step_of_decode hinputs (decode_of_rst hrst)⟩

end Sys2Proof.Machine

namespace Sys2Proof.Machine

/-! ### The step with nothing presented -/

/-- With no vector at the input ports a step is refused: the model's choice of log entry 3. -/
theorem step_of_inputs_nil {s : State} (h : s.inputs = []) : step s = .refused .noCommandPresented := by
  rw [step, h]

/-- Settles O9: the equation of `step` for the empty list of vectors. -/
theorem nothingPresentedStops : Obligations.NothingPresentedStops :=
  fun _ => step_of_inputs_nil

end Sys2Proof.Machine
